-- ==== Sys2Proof/Word.lean ====
section
/-! DEFINITION. The word types of the machine and the plainest operation on byte lists (00_scope.md R8). -/

namespace Sys2Proof

/-- A byte of the report, of a register or of the ROM (R8): an unsigned integer 0 to 255. -/
abbrev Byte := BitVec 8

/-- A binary64 pattern, and the width of the read port (R171, R223). -/
abbrev Word64 := BitVec 64

/-- A byte list of known length, index 0 the byte at the lowest report offset (R8). -/
abbrev Bytes (n : Nat) := Vector Byte n

/-- `rev(L)` (R8): the list in reverse order. -/
def Bytes.rev {n : Nat} (L : Bytes n) : Bytes n :=
  Vector.ofFn fun i => L[n - 1 - i.val]

end Sys2Proof
end

