-- ==== Sys2Proof/Machine/Binary64.lean ====
section
/-! DEFINITION. IEEE 754 binary64 as 42_scale.md R171 to R173 describe it: the reading of a pattern, `fp`, `fmul` and
`fdiv`, each rounding the exact result to nearest, ties to even. All arithmetic is exact over the naturals and rounds
once at the end. -/

namespace Sys2Proof.Machine

/-- What a pattern stands for, its sign apart (R171). A finite non-zero value is `significand × 2^exponent`. -/
inductive FpKind where
  | zero
  | finite (significand : Nat) (exponent : Int)
  | infinite
  | nan
deriving DecidableEq, Repr

/-- The sign, bit 63 (R171). -/
def fpSign (v : Word64) : Bool := v.msb

/-- The exponent field, bits 62 to 52 (R171). -/
def fpExponent (v : Word64) : Nat := (v.extractLsb' 52 11).toNat

/-- The fraction field, bits 51 to 0 (R171). -/
def fpFraction (v : Word64) : Nat := (v.extractLsb' 0 52).toNat

/-- The reading of a pattern (R171). -/
def fpKind (v : Word64) : FpKind :=
  if fpExponent v = 2047 then
    if fpFraction v = 0 then .infinite else .nan
  else if fpExponent v = 0 then
    if fpFraction v = 0 then .zero else .finite (fpFraction v) (-1074)
  else .finite (2 ^ 52 + fpFraction v) ((fpExponent v : Int) - 1075)

/-- Is the pattern a NaN (R171)? -/
def isNan (v : Word64) : Bool :=
  fpKind v == .nan

/-- The number a pattern stands for, where it is finite (R171). Used by statements only. -/
def fpValue (v : Word64) : Option ℚ :=
  match fpKind v with
  | .zero => some 0
  | .finite m e => some ((if fpSign v then -1 else 1) * (m : ℚ) * (2 : ℚ) ^ e)
  | .infinite => none
  | .nan => none

/-- The largest `k` with `2^k ≤ num / den`, for positive `num` and `den`. -/
def ratioLog2 (num den : Nat) : Int :=
  let k : Int := (num.log2 : Int) - (den.log2 : Int)
  if den * 2 ^ k.toNat ≤ num * 2 ^ (-k).toNat then k else k - 1

/-- The integer nearest to `n / d`, the even one when two are equally near (R173). -/
def nearestEven (n d : Nat) : Nat :=
  let q := n / d
  let r := n % d
  if 2 * r < d ∨ (2 * r = d ∧ q % 2 = 0) then q else q + 1

/-- Bits 62 to 0 of the binary64 value nearest to the positive rational `num / den`, ties to even. The unit in the last
place is `2^e`; a carry out of the significand goes into the exponent field by the addition, and what reaches the
exponent 2047 is infinity. -/
def roundMagnitude (num den : Nat) : Nat :=
  let e : Int := max (ratioLog2 num den - 52) (-1074)
  let q := nearestEven (num * 2 ^ (-e).toNat) (den * 2 ^ e.toNat)
  min ((e + 1074).toNat * 2 ^ 52 + q) (2047 * 2 ^ 52)

/-- A pattern from its sign and its other 63 bits. -/
def withSign (negative : Bool) (magnitude : Nat) : Word64 :=
  BitVec.ofNat 64 ((if negative then 2 ^ 63 else 0) + magnitude)

def fpZero (negative : Bool) : Word64 := withSign negative 0

def fpInfinity (negative : Bool) : Word64 := withSign negative (2047 * 2 ^ 52)

/-- `fp(i)` (R172): exact for `|i| < 2^53`, and `fp(0) = +0`. -/
def fp (i : Int) : Word64 :=
  if i = 0 then fpZero false else withSign (decide (i < 0)) (roundMagnitude i.natAbs 1)

/-- The factor of a finite value above the fraction bar. -/
def above (m : Nat) (e : Int) : Nat := m * 2 ^ e.toNat

/-- The factor of a finite value below the fraction bar. -/
def below (e : Int) : Nat := 2 ^ (-e).toNat

/-- `fmul(a, b)` (R172): the sign is the exclusive OR of the signs, also of a zero. Infinite and NaN operands never
occur (R179); their results are IEEE 754's (log 11). -/
def fmul (nanBits a b : Word64) : Word64 :=
  let s := fpSign a ^^ fpSign b
  match fpKind a, fpKind b with
  | .nan, _ => nanBits
  | _, .nan => nanBits
  | .infinite, .zero => nanBits
  | .zero, .infinite => nanBits
  | .infinite, _ => fpInfinity s
  | _, .infinite => fpInfinity s
  | .zero, _ => fpZero s
  | _, .zero => fpZero s
  | .finite ma ea, .finite mb eb => withSign s (roundMagnitude (above ma ea * above mb eb) (below ea * below eb))

/-- `fdiv(a, b)` (R173): finite non-zero over zero is infinity, zero over zero is NaN, zero over non-zero is zero, each
with the exclusive OR of the signs; otherwise the nearest value, ties to even. Infinite and NaN operands never occur
(R179); their results are IEEE 754's (log 11). -/
def fdiv (nanBits a b : Word64) : Word64 :=
  let s := fpSign a ^^ fpSign b
  match fpKind a, fpKind b with
  | .nan, _ => nanBits
  | _, .nan => nanBits
  | .infinite, .infinite => nanBits
  | .infinite, _ => fpInfinity s
  | _, .infinite => fpZero s
  | .zero, .zero => nanBits
  | .zero, .finite _ _ => fpZero s
  | .finite _ _, .zero => fpInfinity s
  | .finite ma ea, .finite mb eb => withSign s (roundMagnitude (above ma ea * below eb) (above mb eb * below ea))

/-- `(raw × m) / d` in binary64 (R170): convert, multiply, divide. -/
def scale (nanBits : Word64) (raw m d : Int) : Word64 :=
  fdiv nanBits (fmul nanBits (fp raw) (fp m)) (fp d)

end Sys2Proof.Machine
end

