-- ==== Sys2Proof/Config.lean ====
section
/-! DEFINITION. The parameters of 00_scope.md R7: constants of this hardware, the two arguments of the step relation
(`LAYOUT_ROM`, `NAN_BITS`) with their defaults, and the free value of host reads. -/

namespace Sys2Proof.Config

/-- `REPORT_LEN` (R7). -/
def reportLen : Nat := 64

/-- `USED_LEN` (R7): bytes the canonical layout consumes. -/
def usedLen : Nat := 54

/-- `ROM_DEPTH` (R7). -/
def romDepth : Nat := 32

/-- The largest value of `LEN` (R27): 16 bits, saturating. -/
def lenMax : Nat := 65535

/-- `INSTANCES` (R7), default 1. -/
def defaultInstances : Nat := 1

/-- `XW` (R7): the width of the bias XOR. Any width from 9 bits up gives the same result (R146); log 12. -/
def xorWidth : Nat := 9

/-- The canonical program (R104), index 0 first: 31 descriptors and one illegal filler. -/
def canonicalRom : Bytes 32 :=
  #v[0x20, 0x22, 0x24,
     0x40, 0x60, 0x81, 0x83, 0x85, 0xA0, 0xC0, 0xC2, 0xC4,
     0x48, 0x68, 0x89, 0x8B, 0x8D, 0xA8, 0xC8, 0xCA, 0xCC,
     0x50, 0x70, 0x90, 0x92, 0x94, 0xB1, 0xD0, 0xD2, 0xD4,
     0xE0, 0x00]

/-- The default of `NAN_BITS` (R7, R179). -/
def defaultNanBits : Word64 := 0x7FF8000000000000

/-- The value a host READ delivers where R226 says "any value", one for each draw (log 7). It has no body: nothing can
be proved of it. -/
opaque freeRead : Nat → Word64

end Sys2Proof.Config

namespace Sys2Proof

/-- The parameters of the step relation that the spec leaves to the model as arguments (R7, R20; log 1). No transition
writes them. -/
structure Params where
  /-- `LAYOUT_ROM`: the 32 descriptors (R23). -/
  layoutRom : Bytes 32
  /-- `NAN_BITS`: the pattern of a NaN result (R179). -/
  nanBits : Word64
deriving DecidableEq, Repr

/-- The parameters this hardware takes (R7): the canonical program and the default NaN. -/
def Params.standard : Params where
  layoutRom := Config.canonicalRom
  nanBits := Config.defaultNanBits

end Sys2Proof
end

