-- ==== Sys2Proof/Syntax.lean ====
section
/-! DEFINITION. The descriptors as syntax: names of groups, axes and opaque fields (00_scope.md R11), the
instruction type `Instr` (one constructor per row of the opcode table, 30_encoding.md R87), the pseudo-instructions
(R109, R110), and the two small containers indexed by group and by axis. -/

namespace Sys2Proof

/-- The sensor groups (R11): ANG = 0, ACC = 1, MAG = 2. -/
inductive Group where
  | ang
  | acc
  | mag
deriving DecidableEq, Repr

/-- The axes (R11): x = 0, y = 1, z = 2. -/
inductive Axis where
  | x
  | y
  | z
deriving DecidableEq, Repr

/-- The opaque fields (R11): SIG = 0, TEMP = 1, TS = 2. -/
inductive OpaqueField where
  | sig
  | temp
  | ts
deriving DecidableEq, Repr

/-- The width operand of SLA (R86, R89): `w2` a 2-byte biased axis (`w3 = 0`), `w3` a 3-byte plain axis (`w3 = 1`). -/
inductive AxisWidth where
  | w2
  | w3
deriving DecidableEq, Repr

/-- One constructor per row of the opcode table (R87). The operand constraints of R88 (no group, axis or opaque field
number 3, zero where a field must be zero) are the operands' types. -/
inductive Instr where
  /-- `SLO f`: slice an opaque field (R122). -/
  | slo (f : OpaqueField)
  /-- `SLM g`: slice a multiplier field (R124). -/
  | slm (g : Group)
  /-- `SLD g`: slice a divisor field (R126). -/
  | sld (g : Group)
  /-- `SLA g, a, w`: slice an axis field (R128). -/
  | sla (g : Group) (a : Axis) (w : AxisWidth)
  /-- `LDS g, r`: load the scale pair, byte lists reversed when `r` (R152). -/
  | lds (g : Group) (r : Bool)
  /-- `CNV g, a`: convert one axis (R170). -/
  | cnv (g : Group) (a : Axis)
  /-- `END` (R208). -/
  | endRun
deriving DecidableEq, Repr

/-- A line of an assembly program: an instruction or one of the two pseudo-instructions (R109, R110). -/
inductive Asm where
  | instr (i : Instr)
  | grp (g : Group) (w : AxisWidth) (r : Bool)
  | report
deriving DecidableEq, Repr

/-- One value per sensor group. -/
structure PerGroup (α : Type) where
  ang : α
  acc : α
  mag : α
deriving DecidableEq, Repr

/-- One value per axis. -/
structure PerAxis (α : Type) where
  x : α
  y : α
  z : α
deriving DecidableEq, Repr

def PerGroup.all {α : Type} (v : α) : PerGroup α := ⟨v, v, v⟩

def PerGroup.get {α : Type} (p : PerGroup α) : Group → α
  | .ang => p.ang
  | .acc => p.acc
  | .mag => p.mag

def PerGroup.set {α : Type} (p : PerGroup α) (g : Group) (v : α) : PerGroup α :=
  match g with
  | .ang => { p with ang := v }
  | .acc => { p with acc := v }
  | .mag => { p with mag := v }

def PerAxis.all {α : Type} (v : α) : PerAxis α := ⟨v, v, v⟩

def PerAxis.get {α : Type} (p : PerAxis α) : Axis → α
  | .x => p.x
  | .y => p.y
  | .z => p.z

def PerAxis.set {α : Type} (p : PerAxis α) (a : Axis) (v : α) : PerAxis α :=
  match a with
  | .x => { p with x := v }
  | .y => { p with y := v }
  | .z => { p with z := v }

/-- Element `[g][a]` of a register file indexed by group and axis. -/
def PerGroup.at2 {α : Type} (p : PerGroup (PerAxis α)) (g : Group) (a : Axis) : α :=
  (p.get g).get a

/-- Write of element `[g][a]`. -/
def PerGroup.set2 {α : Type} (p : PerGroup (PerAxis α)) (g : Group) (a : Axis) (v : α) : PerGroup (PerAxis α) :=
  p.set g ((p.get g).set a v)

end Sys2Proof
end

