-- ==== Sys2Proof/Machine/State.lean ====
section
/-! DEFINITION. The state of one decoder instance as plain data (10_state.md R20 to R40), the host agent's coming
events, the reasons a step could stop, and the state after reset (70_reset_and_hazards.md R280). -/

namespace Sys2Proof.Machine

/-- The report buffer `RB` (R22) as (address, byte) pairs in one canonical form: addresses strictly rising, no entry
equal to what an unlisted address reads as (`Memory.wf`). -/
structure Memory where
  cells : List Host.Cell
deriving DecidableEq, Repr

/-- `STATUS` (R26). Values 5 to 7 never occur and are not representable (U12). -/
inductive Status where
  /-- 0: reset, nothing delivered yet. -/
  | idle
  /-- 1: a 64-byte frame is being decoded. -/
  | busy
  /-- 2: the decoded report is complete and valid. -/
  | done
  /-- 3: the last frame's length was not 64. -/
  | rejected
  /-- 4: sequencer fault. -/
  | fault
deriving DecidableEq, Repr

/-- `FCAUSE` (R28, R256). Values 5 to 7 are never recorded and are not representable (U12). -/
inductive Cause where
  /-- 0: no fault since the last DELIVER or reset. -/
  | none
  /-- 1: the fetched word is illegal. -/
  | illegalDescriptor
  /-- 2: a source register's written flag is 0. -/
  | unwrittenSource
  /-- 3: a slice with `CUR + w > 64`. -/
  | cursorOverrun
  /-- 4: an instruction other than END at `DPC = 31`. -/
  | romOverrun
deriving DecidableEq, Repr

/-- `AXB[g][a]` with its byte count `AXN[g][a]` (R33): a 2-byte field has no byte 2 (R128, U13; log 13). -/
inductive AxisBytes where
  /-- `AXN = 2`: `[lo, hi]`, format B16. -/
  | b16 (bytes : Bytes 2)
  /-- `AXN = 3`: `[b0, b1, b2]`, format S24. -/
  | s24 (bytes : Bytes 3)
deriving DecidableEq, Repr

/-- The 30 written flags (R36). -/
structure WFlags where
  sigW : Bool
  tempW : Bool
  tsW : Bool
  mulbW : PerGroup Bool
  divbW : PerGroup Bool
  axbW : PerGroup (PerAxis Bool)
  scaleW : PerGroup Bool
  vecW : PerGroup (PerAxis Bool)
deriving DecidableEq, Repr

/-- All 30 written flags 0. -/
def WFlags.clear : WFlags where
  sigW := false
  tempW := false
  tsW := false
  mulbW := .all false
  divbW := .all false
  axbW := .all (.all false)
  scaleW := .all false
  vecW := .all (.all false)

/-- What the host agent does next (R220), or that it leaves the turn to the sequencer (log 6). -/
inductive HostEvent where
  /-- The host does nothing and the sequencer takes its step. -/
  | pass
  /-- DELIVER(F), a frame of any length (R221). -/
  | deliver (frame : List Byte)
  /-- READ(n) (R225). -/
  | read (number : Byte)
  /-- RESET (R280). -/
  | reset
deriving DecidableEq, Repr

/-- What a READ returned to the host: the number asked for and `rd_data` (R225). -/
structure Answer where
  number : Byte
  value : Word64
deriving DecidableEq, Repr

/-- The state of one decoder instance: R20's list, the parameters of the step relation, and the host agent. -/
structure State where
  /-- `LAYOUT_ROM` and `NAN_BITS`: parameters, written by nothing (R20, R23; log 1). -/
  params : Params
  /-- `RB` (R22). -/
  rb : Memory
  /-- `LEN` (R27). -/
  len : BitVec 16
  /-- `CUR` (R24). -/
  cur : BitVec 7
  /-- `DPC` (R25). -/
  dpc : BitVec 5
  /-- `STATUS` (R26). -/
  status : Status
  /-- `FCAUSE` (R28). -/
  fcause : Cause
  /-- `FDPC` (R28). -/
  fdpc : BitVec 5
  /-- `FCUR` (R28). -/
  fcur : BitVec 7
  /-- `SIG` (R30). -/
  sig : Bytes 2
  /-- `TEMP` (R30). -/
  temp : Bytes 2
  /-- `TS` (R30). -/
  ts : Bytes 8
  /-- `MULB[g]` (R31). -/
  mulb : PerGroup (Bytes 2)
  /-- `DIVB[g]` (R32). -/
  divb : PerGroup (Bytes 4)
  /-- `AXB[g][a]` with `AXN[g][a]` (R33). -/
  axb : PerGroup (PerAxis AxisBytes)
  /-- `M[g]`, two's complement (R34). -/
  m : PerGroup (BitVec 16)
  /-- `D[g]`, two's complement (R34). -/
  d : PerGroup (BitVec 32)
  /-- `RAW[g][a]`, two's complement (R35). -/
  raw : PerGroup (PerAxis (BitVec 24))
  /-- `VEC[g][a]`, binary64 (R35). -/
  vec : PerGroup (PerAxis Word64)
  /-- The written flags (R36). -/
  written : WFlags
  /-- The host agent's coming events, oldest first (log 6). -/
  inbox : List HostEvent
  /-- What the host's READs returned, oldest first (log 8). -/
  answers : List Answer
  /-- Free values drawn by READs so far (log 7). -/
  draws : Nat
deriving DecidableEq, Repr

/-- Reasons for which a step stops with a fault: none. Every sequencer fault is a state with `STATUS = FAULT` (R262), so
no step ends here. -/
inductive Fault where
deriving DecidableEq, Repr

/-- Reasons for which a step is refused. -/
inductive Refusal where
  /-- Raised by `exec`'s arm of an instruction that has no meaning yet; safe. No arm raises it: all seven have one. -/
  | notModelled (mnemonic : String)
deriving DecidableEq, Repr

/-- The machine right after reset (R280, R40). The data registers and `RB` are unspecified there: their values are the
model's (logs 2 and 3); the parameters have their defaults (R7). -/
def State.reset : State where
  params := .standard
  rb := ⟨[]⟩
  len := 0
  cur := 0
  dpc := 0
  status := .idle
  fcause := .none
  fdpc := 0
  fcur := 0
  sig := .replicate 2 0
  temp := .replicate 2 0
  ts := .replicate 8 0
  mulb := .all (.replicate 2 0)
  divb := .all (.replicate 4 0)
  axb := .all (.all (.b16 (.replicate 2 0)))
  m := .all 0
  d := .all 0
  raw := .all (.all 0)
  vec := .all (.all 0)
  written := .clear
  inbox := []
  answers := []
  draws := 0

end Sys2Proof.Machine
end

