-- ==== Sys2Proof/Machine/Flags.lean ====
section
/-! DEFINITION. The written flags, the only flags of the machine (10_state.md R36, R37): setting them, the word
`WFLAGS`, and the source checks of LDS and CNV. -/

namespace Sys2Proof.Machine

/-- SLO sets the flag of its field (R36). -/
def WFlags.setOpaque (f : WFlags) : OpaqueField → WFlags
  | .sig => { f with sigW := true }
  | .temp => { f with tempW := true }
  | .ts => { f with tsW := true }

/-- SLM sets `MULB_W[g]` (R36). -/
def WFlags.setMulb (f : WFlags) (g : Group) : WFlags :=
  { f with mulbW := f.mulbW.set g true }

/-- SLD sets `DIVB_W[g]` (R36). -/
def WFlags.setDivb (f : WFlags) (g : Group) : WFlags :=
  { f with divbW := f.divbW.set g true }

/-- SLA sets `AXB_W[g][a]` (R36). -/
def WFlags.setAxb (f : WFlags) (g : Group) (a : Axis) : WFlags :=
  { f with axbW := f.axbW.set2 g a true }

/-- LDS sets `SCALE_W[g]` (R36). -/
def WFlags.setScale (f : WFlags) (g : Group) : WFlags :=
  { f with scaleW := f.scaleW.set g true }

/-- CNV sets `VEC_W[g][a]` (R36). -/
def WFlags.setVec (f : WFlags) (g : Group) (a : Axis) : WFlags :=
  { f with vecW := f.vecW.set2 g a true }

/-- The sources of LDS hold a value (R37, R257). -/
def WFlags.scaleSources (f : WFlags) (g : Group) : Bool :=
  f.mulbW.get g && f.divbW.get g

/-- The sources of CNV hold a value (R37, R257). -/
def WFlags.convertSources (f : WFlags) (g : Group) (a : Axis) : Bool :=
  f.axbW.at2 g a && f.scaleW.get g

/-- One flag at its bit of the word. -/
def flagBit (position : Nat) (flag : Bool) : BitVec 32 :=
  if flag then BitVec.ofNat 32 (2 ^ position) else 0

/-- Three group flags at `first`, `first + 1`, `first + 2`. -/
def groupBits (first : Nat) (p : PerGroup Bool) : BitVec 32 :=
  flagBit first p.ang ||| flagBit (first + 1) p.acc ||| flagBit (first + 2) p.mag

/-- Three axis flags at `first`, `first + 1`, `first + 2`. -/
def axisBits (first : Nat) (p : PerAxis Bool) : BitVec 32 :=
  flagBit first p.x ||| flagBit (first + 1) p.y ||| flagBit (first + 2) p.z

/-- Nine flags at `first + 3g + a`. -/
def groupAxisBits (first : Nat) (p : PerGroup (PerAxis Bool)) : BitVec 32 :=
  axisBits first p.ang ||| axisBits (first + 3) p.acc ||| axisBits (first + 6) p.mag

/-- `WFLAGS` (R36): bit 0 SIG_W, 1 TEMP_W, 2 TS_W, `3+g` MULB_W, `6+g` DIVB_W, `9+3g+a` AXB_W, `18+g` SCALE_W,
`21+3g+a` VEC_W; bits 30 and 31 read 0. -/
def WFlags.word (f : WFlags) : BitVec 32 :=
  flagBit 0 f.sigW ||| flagBit 1 f.tempW ||| flagBit 2 f.tsW ||| groupBits 3 f.mulbW ||| groupBits 6 f.divbW
    ||| groupAxisBits 9 f.axbW ||| groupBits 18 f.scaleW ||| groupAxisBits 21 f.vecW

end Sys2Proof.Machine
end

