-- ==== Sys2Proof/Decode.lean ====
section
/-! DEFINITION. The decoder (total on every byte, rejecting by name), the encoder, both from 30_encoding.md R86 to
R92, and the word of an opcode-table row as the decoder reads it. -/

namespace Sys2Proof

/-- Bytes of an opaque field (R89): 2, 2 and 8. -/
def OpaqueField.width : OpaqueField → Nat
  | .sig => 2
  | .temp => 2
  | .ts => 8

/-- Bytes of an axis field (R89). -/
def AxisWidth.bytes : AxisWidth → Nat
  | .w2 => 2
  | .w3 => 3

/-- The slice width of an instruction (R89), 0 for an instruction that slices nothing. -/
def Instr.sliceWidth : Instr → Nat
  | .slo f => f.width
  | .slm _ => 2
  | .sld _ => 4
  | .sla _ _ w => w.bytes
  | .lds _ _ => 0
  | .cnv _ _ => 0
  | .endRun => 0

/-- The number of an opaque field in the encodings (R11). -/
def OpaqueField.num : OpaqueField → BitVec 2
  | .sig => 0
  | .temp => 1
  | .ts => 2

/-- The number of a group in the encodings (R11). -/
def Group.num : Group → BitVec 2
  | .ang => 0
  | .acc => 1
  | .mag => 2

/-- The number of an axis in the encodings (R11). -/
def Axis.num : Axis → BitVec 2
  | .x => 0
  | .y => 1
  | .z => 2

/-- The flag `w3 = w − 2` (R89). -/
def AxisWidth.flag : AxisWidth → BitVec 1
  | .w2 => 0
  | .w3 => 1

/-- Why a word is illegal (R92). The machine records no reason: every one raises ILLEGAL_DESCRIPTOR (log 17). -/
inductive Illegal where
  | reservedOp
  | illegalGroup
  | illegalSelection
  | mustBeZero
deriving DecidableEq, Repr

/-- Field `op`, bits 7:5 (R86). -/
def descOp (d : Byte) : BitVec 3 := d.extractLsb' 5 3

/-- Field `g`, bits 4:3 (R86). -/
def descGroup (d : Byte) : BitVec 2 := d.extractLsb' 3 2

/-- Field `sel`, bits 2:1 (R86). -/
def descSel (d : Byte) : BitVec 2 := d.extractLsb' 1 2

/-- Field `fl`, bit 0 (R86). -/
def descFlag (d : Byte) : BitVec 1 := d.extractLsb' 0 1

def groupOfNum (n : BitVec 2) : Except Illegal Group :=
  match n.toNat with
  | 0 => .ok .ang
  | 1 => .ok .acc
  | 2 => .ok .mag
  | _ => .error .illegalGroup

def axisOfNum (n : BitVec 2) : Except Illegal Axis :=
  match n.toNat with
  | 0 => .ok .x
  | 1 => .ok .y
  | 2 => .ok .z
  | _ => .error .illegalSelection

def opaqueOfNum (n : BitVec 2) : Except Illegal OpaqueField :=
  match n.toNat with
  | 0 => .ok .sig
  | 1 => .ok .temp
  | 2 => .ok .ts
  | _ => .error .illegalSelection

def axisWidthOfFlag (fl : BitVec 1) : AxisWidth :=
  if fl = 1 then .w3 else .w2

/-- A field that must be 0 (R86). -/
def mustBeZero {w : Nat} (field : BitVec w) : Except Illegal Unit :=
  if field = 0 then .ok () else .error .mustBeZero

/-- `Decode(d)` (R88, R90, R92): `op` first, then the constraints of the selected row. -/
def decode (d : Byte) : Except Illegal Instr :=
  match (descOp d).toNat with
  | 1 => do
    mustBeZero (descGroup d)
    mustBeZero (descFlag d)
    return .slo (← opaqueOfNum (descSel d))
  | 2 => do
    mustBeZero (descSel d)
    mustBeZero (descFlag d)
    return .slm (← groupOfNum (descGroup d))
  | 3 => do
    mustBeZero (descSel d)
    mustBeZero (descFlag d)
    return .sld (← groupOfNum (descGroup d))
  | 4 => do
    let g ← groupOfNum (descGroup d)
    let a ← axisOfNum (descSel d)
    return .sla g a (axisWidthOfFlag (descFlag d))
  | 5 => do
    mustBeZero (descSel d)
    return .lds (← groupOfNum (descGroup d)) (descFlag d == 1)
  | 6 => do
    mustBeZero (descFlag d)
    let g ← groupOfNum (descGroup d)
    return .cnv g (← axisOfNum (descSel d))
  | 7 => do
    mustBeZero (descGroup d)
    mustBeZero (descSel d)
    mustBeZero (descFlag d)
    return .endRun
  | _ => .error .reservedOp

/-- The four fields of format D8 put together (R86). -/
def descriptor (op : BitVec 3) (g sel : BitVec 2) (fl : BitVec 1) : Byte :=
  op ++ g ++ sel ++ fl

/-- The word of an instruction (R88). -/
def encode : Instr → Byte
  | .slo f => descriptor 1 0 f.num 0
  | .slm g => descriptor 2 g.num 0 0
  | .sld g => descriptor 3 g.num 0 0
  | .sla g a w => descriptor 4 g.num a.num w.flag
  | .lds g r => descriptor 5 g.num 0 (BitVec.ofBool r)
  | .cnv g a => descriptor 6 g.num a.num 0
  | .endRun => descriptor 7 0 0 0

/-- A program as ROM contents: entries not listed are `0x00` (95_test_vectors.md part 3). -/
def romOf (program : List Instr) : Bytes 32 :=
  Vector.ofFn fun i => (program[i.val]?.map encode).getD 0x00

/-- The descriptor byte of an opcode-table word: every descriptor is one byte (R86). -/
def tableByte (nbits w : Nat) : Byte :=
  BitVec.ofNat 8 (w % 2 ^ nbits)

/-- What the decoder reads from an instruction whose bits are `w`. -/
def decodeTableWord (nbits w : Nat) : Option Instr :=
  match decode (tableByte nbits w) with
  | .ok i => some i
  | .error _ => none

end Sys2Proof
end

