-- ==== Sys2Proof/Machine/Operands.lean ====
section
/-! DEFINITION. The unpack functions, exact over the integers (41_unpack.md R140 to R160): how the bytes of a field
are read as a number. -/

namespace Sys2Proof.Machine

/-- `sext_8(v)` (R140). -/
def sext8 (v : Byte) : Int :=
  if v &&& 0x80 ≠ 0 then (v.toNat : Int) - 256 else v.toNat

/-- `MUL16([lo, hi])` (R142). -/
def mul16 (L : Bytes 2) : Int :=
  L[0].toNat + 256 * sext8 L[1]

/-- `DIV32([b0, b1, b2, b3])` (R144): the mixed-radix assembly. -/
def div32 (L : Bytes 4) : Int :=
  L[0].toNat + 256 * L[1].toNat + 65536 * L[2].toNat + 16777216 * sext8 L[3]

/-- The exclusive OR of `s` with `0x80` in two's complement at a given width (R146). -/
def bxor80At (width : Nat) (s : Int) : Int :=
  (BitVec.ofInt width s ^^^ BitVec.ofNat width 0x80).toInt

/-- `bxor80(s)` (R146), at the width `XW`; the result is the same at every width from 9 up (log 12). -/
def bxor80 (s : Int) : Int :=
  bxor80At Config.xorWidth s

/-- `RAW2([lo, hi])` (R148): the bias XOR comes after the sign extension. -/
def raw2 (L : Bytes 2) : Int :=
  bxor80 (sext8 L[1]) * 256 + L[0].toNat

/-- `RAW3([b0, b1, b2])` (R150). -/
def raw3 (L : Bytes 3) : Int :=
  sext8 L[2] * 65536 + L[1].toNat * 256 + L[0].toNat

/-- The raw value of an axis field: the width the slice recorded chooses the rule (R170). -/
def rawOf : AxisBytes → Int
  | .b16 L => raw2 L
  | .s24 L => raw3 L

/-- `AXN[g][a]` (R33). -/
def AxisBytes.axn : AxisBytes → Nat
  | .b16 _ => 2
  | .s24 _ => 3

/-- The raw-byte view of an axis field: its first `AXN` bytes (R33, R132). -/
def AxisBytes.bytes : AxisBytes → List Byte
  | .b16 L => L.toList
  | .s24 L => L.toList

/-- An axis field made of a slice of the given width (R128). -/
def AxisBytes.ofSlice (w : AxisWidth) (L : Bytes w.bytes) : AxisBytes :=
  match w, L with
  | .w2, L => .b16 L
  | .w3, L => .s24 L

/-- The byte list LDS interprets: a reversed copy when `r` (R152). -/
def orderBytes {n : Nat} (r : Bool) (L : Bytes n) : Bytes n :=
  if r then L.rev else L

end Sys2Proof.Machine
end

