-- ==== Sys2Proof/Machine/Ops.lean ====
section
/-! DEFINITION. The named operations over memory and registers: reading and filling the report buffer (20_memory.md
R60, R61), fetching from the ROM (R64), the writes of each kind of register, taking a sequencer fault
(60_exceptions.md R262), completing an instruction (43_control.md R206), and the slice, the one addressing mode
(40_slice.md R120). There is no return from a fault (R263). -/

namespace Sys2Proof.Machine

/-- The outcome type of every meaning. -/
abbrev Result := Host.Outcome State Fault Refusal

/-- What an address of `RB` that lists nothing reads as (log 3). -/
def Memory.unlisted : Byte := 0

/-- The byte at an address in a list of cells. -/
def readCells : List Host.Cell → Nat → Byte
  | [], _ => Memory.unlisted
  | (k, v) :: rest, a => if k = a then v else readCells rest a

/-- The list of cells with one byte written, canonical again. -/
def writeCells : List Host.Cell → Nat → Byte → List Host.Cell
  | [], a, b => if b = Memory.unlisted then [] else [(a, b)]
  | (k, v) :: rest, a, b =>
    if a < k then if b = Memory.unlisted then (k, v) :: rest else (a, b) :: (k, v) :: rest
    else if a = k then if b = Memory.unlisted then rest else (a, b) :: rest
    else (k, v) :: writeCells rest a b

/-- Addresses strictly rising from `low`, all below 64, no byte equal to what an unlisted address reads as. -/
def wfCells : Nat → List Host.Cell → Bool
  | _, [] => true
  | low, (k, v) :: rest => decide (low ≤ k) && decide (k < Config.reportLen) && v != Memory.unlisted && wfCells (k + 1) rest

/-- `RB[a]`. -/
def Memory.read (mem : Memory) (a : Nat) : Byte :=
  readCells mem.cells a

/-- `RB[a] <- b`. -/
def Memory.write (mem : Memory) (a : Nat) (b : Byte) : Memory :=
  ⟨writeCells mem.cells a b⟩

/-- The canonical form of `RB`. -/
def Memory.wf (mem : Memory) : Bool :=
  wfCells 0 mem.cells

/-- A buffer that lists nothing. -/
def Memory.blank : Memory := ⟨[]⟩

/-- The bytes of a frame written from an address on: `for i: RB[a + i] <- F[i]` (R221). -/
def Memory.fill (mem : Memory) (a : Nat) : List Byte → Memory
  | [] => mem
  | b :: rest => (mem.write a b).fill (a + 1) rest

/-- `MemRead(addr, n)` (R60): bytes, lowest address first. -/
def memRead (mem : Memory) (addr n : Nat) : Bytes n :=
  Vector.ofFn fun i => mem.read (addr + i.val)

/-- `RomRead(DPC)` (R64, R202): the descriptor the sequencer executes next. -/
def fetch (s : State) : Byte :=
  s.params.layoutRom[s.dpc.toNat]'s.dpc.isLt

/-- The ROM with one entry replaced; used to place a program, by no transition of the machine. -/
def withDescriptor (p : Params) (index : BitVec 5) (word : Byte) : Params :=
  { p with layoutRom := p.layoutRom.set index.toNat word index.isLt }

/-- Fault entry, `raise Fault(c)` (R262): the record and the status, and nothing else. -/
def State.enterFault (s : State) (c : Cause) : State :=
  { s with fcause := c, fdpc := s.dpc, fcur := s.cur, status := .fault }

/-- The step faults instead of having its effect (R262). -/
def raiseFault (c : Cause) (s : State) : Result :=
  .next (s.enterFault c)

/-- `dpc <- DPC + 1` (R206). -/
def State.advance (s : State) : State :=
  { s with dpc := s.dpc + 1 }

/-- The end of every instruction but END (R206, R259): at index 31 the step faults and its effect is dropped;
otherwise the effect stands and `DPC` advances. `after` is the state `s` with the instruction's own writes. -/
def complete (s after : State) : Result :=
  if s.dpc = 31 then raiseFault .romOverrun s else .next after.advance

/-- `cur <- CUR + w` (R120). -/
def State.moveCursor (s : State) (w : Nat) : State :=
  { s with cur := s.cur + BitVec.ofNat 7 w }

/-- `SIG`, `TEMP` or `TS` `<- L`, with its flag (R122). -/
def State.putOpaque (s : State) (f : OpaqueField) (L : Bytes f.width) : State :=
  match f, L with
  | .sig, L => { s with sig := L, written := s.written.setOpaque .sig }
  | .temp, L => { s with temp := L, written := s.written.setOpaque .temp }
  | .ts, L => { s with ts := L, written := s.written.setOpaque .ts }

/-- `MULB[g] <- L`, with its flag (R124). -/
def State.putMulb (s : State) (g : Group) (L : Bytes 2) : State :=
  { s with mulb := s.mulb.set g L, written := s.written.setMulb g }

/-- `DIVB[g] <- L`, with its flag (R126). -/
def State.putDivb (s : State) (g : Group) (L : Bytes 4) : State :=
  { s with divb := s.divb.set g L, written := s.written.setDivb g }

/-- `AXB[g][a] <- L` and `AXN[g][a] <- w`, with its flag (R128). -/
def State.putAxis (s : State) (g : Group) (a : Axis) (field : AxisBytes) : State :=
  { s with axb := s.axb.set2 g a field, written := s.written.setAxb g a }

/-- `M[g]` and `D[g]`, both at once, with their flag (R34, R152). The registers hold every value (R166). -/
def State.putScale (s : State) (g : Group) (m d : Int) : State :=
  { s with m := s.m.set g (.ofInt 16 m), d := s.d.set g (.ofInt 32 d), written := s.written.setScale g }

/-- `RAW[g][a]` and `VEC[g][a]`, together, with their flag (R35, R170). The register holds every value (R166). -/
def State.putVec (s : State) (g : Group) (a : Axis) (raw : Int) (v : Word64) : State :=
  { s with raw := s.raw.set2 g a (.ofInt 24 raw), vec := s.vec.set2 g a v, written := s.written.setVec g a }

/-- `Slice(w)` and the rest of a slice instruction (R120, R121): the bound first, then the bytes at the cursor go to
`put`, the cursor moves by `w`, and the instruction completes. -/
def slice (w : Nat) (put : Bytes w → State → State) (s : State) : Result :=
  if s.cur.toNat + w > Config.reportLen then raiseFault .cursorOverrun s
  else complete s ((put (memRead s.rb s.cur.toNat w) s).moveCursor w)

end Sys2Proof.Machine
end

