-- ==== Sys2Proof/Machine/Control.lean ====
section
/-! DEFINITION. END, the one system instruction (43_control.md R208, R209). -/

namespace Sys2Proof.Machine

/-- `END` (R208): legal at index 31 too; `DPC` and `CUR` stay. -/
def execEndRun (s : State) : Result :=
  .next { s with status := .done }

end Sys2Proof.Machine
end

