-- ==== Sys2Proof/Machine/Scale.lean ====
section
/-! DEFINITION. The scale pair and the scaler: LDS (41_unpack.md R152) and CNV (42_scale.md R170). -/

namespace Sys2Proof.Machine

/-- `LDS g, r` (R152). -/
def execLds (g : Group) (r : Bool) (s : State) : Result :=
  if s.written.scaleSources g then
    complete s (s.putScale g (mul16 (orderBytes r (s.mulb.get g))) (div32 (orderBytes r (s.divb.get g))))
  else raiseFault .unwrittenSource s

/-- `CNV g, a` (R170): a zero divisor raises nothing (R178). -/
def execCnv (g : Group) (a : Axis) (s : State) : Result :=
  if s.written.convertSources g a then
    let raw := rawOf (s.axb.at2 g a)
    complete s (s.putVec g a raw (scale s.params.nanBits raw (s.m.get g).toInt (s.d.get g).toInt))
  else raiseFault .unwrittenSource s

end Sys2Proof.Machine
end

