-- ==== Sys2Proof/Machine/Slice.lean ====
section
/-! DEFINITION. The field slicer: SLO, SLM, SLD, SLA (40_slice.md). -/

namespace Sys2Proof.Machine

/-- `SLO f` (R122). -/
def execSlo (f : OpaqueField) (s : State) : Result :=
  slice f.width (fun L t => t.putOpaque f L) s

/-- `SLM g` (R124). -/
def execSlm (g : Group) (s : State) : Result :=
  slice 2 (fun L t => t.putMulb g L) s

/-- `SLD g` (R126). -/
def execSld (g : Group) (s : State) : Result :=
  slice 4 (fun L t => t.putDivb g L) s

/-- `SLA g, a, w` (R128). -/
def execSla (g : Group) (a : Axis) (w : AxisWidth) (s : State) : Result :=
  slice w.bytes (fun L t => t.putAxis g a (.ofSlice w L)) s

end Sys2Proof.Machine
end

