-- ==== Sys2Proof/Machine/Dispatch.lean ====
section
/-! DEFINITION. Dispatch: one arm per descriptor operation, by instruction alone (43_control.md R203). -/

namespace Sys2Proof.Machine

def exec (i : Instr) (s : State) : Host.Outcome State Fault Refusal :=
  match i with
  | .slo f => Sys2Proof.Machine.execSlo f s
  | .slm g => Sys2Proof.Machine.execSlm g s
  | .sld g => Sys2Proof.Machine.execSld g s
  | .sla g a w => Sys2Proof.Machine.execSla g a w s
  | .lds g r => Sys2Proof.Machine.execLds g r s
  | .cnv g a => Sys2Proof.Machine.execCnv g a s
  | .endRun => Sys2Proof.Machine.execEndRun s

end Sys2Proof.Machine
end

