-- ==== Sys2Proof/Machine/HostPort.lean ====
section
/-! DEFINITION. The host's three transactions DELIVER, READ and RESET (44_host.md R220 to R227, 43_control.md R200,
70_reset_and_hazards.md R280) and the ports as functions of the state (R223). -/

namespace Sys2Proof.Machine

/-- The 3-bit code of `STATUS` (R26). -/
def Status.code : Status → BitVec 3
  | .idle => 0
  | .busy => 1
  | .done => 2
  | .rejected => 3
  | .fault => 4

/-- The cause code (R256). -/
def Cause.code : Cause → BitVec 3
  | .none => 0
  | .illegalDescriptor => 1
  | .unwrittenSource => 2
  | .cursorOverrun => 3
  | .romOverrun => 4

/-- Port `fr_ready` (R223): a DELIVER is accepted exactly when `STATUS ≠ BUSY`. -/
def State.frReady (s : State) : Bool := s.status != .busy

/-- Port `rp_valid` (R223, R224). -/
def State.rpValid (s : State) : Bool := s.status == .done

/-- Port `rp_status` (R223). -/
def State.rpStatus (s : State) : BitVec 3 := s.status.code

/-- `fr_len` and the value DELIVER puts into `LEN`: `min(len(F), 65535)` (R27, R223). -/
def frameLength (F : List Byte) : BitVec 16 :=
  BitVec.ofNat 16 (min F.length Config.lenMax)

/-- `Gate()` (R200). -/
def State.gate (s : State) : State :=
  if s.len ≠ 64 then { s with status := .rejected }
  else { s with cur := 0, dpc := 0, status := .busy }

/-- What DELIVER writes before the gate (R221). A 64-byte frame writes every address of `RB`, so nothing of the old
contents stays. -/
def State.takeFrame (F : List Byte) (s : State) : State :=
  { s with
    len := frameLength F
    written := .clear
    fcause := .none
    fdpc := 0
    fcur := 0
    cur := 0
    dpc := 0
    rb := if F.length = Config.reportLen then Memory.blank.fill 0 F else s.rb }

/-- `DELIVER(F)` (R221), for a state with `STATUS ≠ BUSY`. -/
def State.deliver (F : List Byte) (s : State) : State :=
  (s.takeFrame F).gate

/-- `RESET` (R280): the block is as after reset whatever it was doing. The parameters and the host agent's own fields are
no part of the block (log 10). -/
def State.resetBlock (s : State) : State :=
  { State.reset with params := s.params, inbox := s.inbox, answers := s.answers, draws := s.draws }

/-- The host-readable registers (R40). -/
inductive RegName where
  | status
  | len
  | fcause
  | fdpc
  | fcur
  | cur
  | dpc
  | wflags
  | sig
  | temp
  | ts
  | mulb (g : Group)
  | divb (g : Group)
  | axb (g : Group) (a : Axis)
  | m (g : Group)
  | d (g : Group)
  | raw (g : Group) (a : Axis)
  | vec (g : Group) (a : Axis)
deriving DecidableEq, Repr

/-- Registers `0x20 + 8g + offset` (R40). -/
def fieldRegister (g : Group) : Nat → Option RegName
  | 0 => some (.mulb g)
  | 1 => some (.divb g)
  | 2 => some (.axb g .x)
  | 3 => some (.axb g .y)
  | 4 => some (.axb g .z)
  | _ => none

/-- Registers `0x40 + 8g + offset` (R40). -/
def scaleRegister (g : Group) : Nat → Option RegName
  | 0 => some (.m g)
  | 1 => some (.d g)
  | 2 => some (.raw g .x)
  | 3 => some (.raw g .y)
  | 4 => some (.raw g .z)
  | 5 => some (.vec g .x)
  | 6 => some (.vec g .y)
  | 7 => some (.vec g .z)
  | _ => none

/-- Registers `0x00` to `0x07` (R40). -/
def statusRegister : Nat → Option RegName
  | 0 => some .status
  | 1 => some .len
  | 2 => some .fcause
  | 3 => some .fdpc
  | 4 => some .fcur
  | 5 => some .cur
  | 6 => some .dpc
  | 7 => some .wflags
  | _ => none

/-- Registers `0x10` to `0x12` (R40). -/
def opaqueRegister : Nat → Option RegName
  | 0 => some .sig
  | 1 => some .temp
  | 2 => some .ts
  | _ => none

/-- The register of a number (R40), `none` for an unmapped number. -/
def regOfNumber (n : Byte) : Option RegName :=
  match n.toNat / 8 with
  | 0 => statusRegister (n.toNat % 8)
  | 2 => opaqueRegister (n.toNat % 8)
  | 4 => fieldRegister .ang (n.toNat % 8)
  | 5 => fieldRegister .acc (n.toNat % 8)
  | 6 => fieldRegister .mag (n.toNat % 8)
  | 8 => scaleRegister .ang (n.toNat % 8)
  | 9 => scaleRegister .acc (n.toNat % 8)
  | 10 => scaleRegister .mag (n.toNat % 8)
  | _ => none

/-- Bytes packed with byte `k` at bits `8k+7 : 8k` (R225). -/
def packBytes : List Byte → Nat
  | [] => 0
  | b :: rest => b.toNat + 256 * packBytes rest

/-- The value of a register on `rd_data` (R225). Of an `AXB` register with `AXN = 2` bits 23:16 are left 0 here:
`State.readPort` puts the free value there. -/
def State.packed (s : State) : RegName → Word64
  | .status => s.status.code.setWidth 64
  | .len => s.len.setWidth 64
  | .fcause => s.fcause.code.setWidth 64
  | .fdpc => s.fdpc.setWidth 64
  | .fcur => s.fcur.setWidth 64
  | .cur => s.cur.setWidth 64
  | .dpc => s.dpc.setWidth 64
  | .wflags => s.written.word.setWidth 64
  | .sig => BitVec.ofNat 64 (packBytes s.sig.toList)
  | .temp => BitVec.ofNat 64 (packBytes s.temp.toList)
  | .ts => BitVec.ofNat 64 (packBytes s.ts.toList)
  | .mulb g => BitVec.ofNat 64 (packBytes (s.mulb.get g).toList)
  | .divb g => BitVec.ofNat 64 (packBytes (s.divb.get g).toList)
  | .axb g a => BitVec.ofNat 64 (packBytes (s.axb.at2 g a).bytes + 2 ^ 32 * (s.axb.at2 g a).axn)
  | .m g => (s.m.get g).signExtend 64
  | .d g => (s.d.get g).signExtend 64
  | .raw g a => (s.raw.at2 g a).signExtend 64
  | .vec g a => s.vec.at2 g a

/-- The written flag of a data register; a status register needs none (R36, R226). -/
def WFlags.ofReg (f : WFlags) : RegName → Bool
  | .sig => f.sigW
  | .temp => f.tempW
  | .ts => f.tsW
  | .mulb g => f.mulbW.get g
  | .divb g => f.divbW.get g
  | .axb g a => f.axbW.at2 g a
  | .m g => f.scaleW.get g
  | .d g => f.scaleW.get g
  | .raw g a => f.vecW.at2 g a
  | .vec g a => f.vecW.at2 g a
  | _ => true

/-- The status registers `0x00` to `0x07`, defined at all times (R226). -/
def RegName.isStatus : RegName → Bool
  | .status => true
  | .len => true
  | .fcause => true
  | .fdpc => true
  | .fcur => true
  | .cur => true
  | .dpc => true
  | .wflags => true
  | _ => false

/-- A READ of the register returns a defined value (R226). -/
def State.readable (s : State) (r : RegName) : Bool :=
  r.isStatus || (s.status != .busy && s.written.ofReg r)

/-- Byte 2 of an `AXB` register holds no value (R33, U13). -/
def State.lacksByte2 (s : State) : RegName → Bool
  | .axb g a => (s.axb.at2 g a).axn == 2
  | _ => false

/-- `READ(n)` (R225, R226): the value on `rd_data` and how many free values it drew. An unmapped number reads 0 (R40). -/
def State.readPort (s : State) (n : Byte) : Word64 × Nat :=
  match regOfNumber n with
  | none => (0, 0)
  | some r =>
    if s.readable r then
      if s.lacksByte2 r then (s.packed r ||| ((Config.freeRead s.draws &&& 0xFF) <<< 16), 1) else (s.packed r, 0)
    else (Config.freeRead s.draws, 1)

/-- Port `rd_data` (R223). -/
def State.rdData (s : State) (n : Byte) : Word64 :=
  (s.readPort n).1

/-- The host takes a READ's value; the block is unchanged (R225). -/
def State.takeRead (n : Byte) (s : State) : State :=
  { s with answers := s.answers ++ [⟨n, s.rdData n⟩], draws := s.draws + (s.readPort n).2 }

end Sys2Proof.Machine
end

