-- ==== Sys2Proof/Machine/Sequencer.lean ====
section
/-! DEFINITION. Who moves and what a move is: the step of the sequencer (43_control.md R201, R202) and the turn that
the host agent's inbox gives (44_host.md R220, R222; log 6). -/

namespace Sys2Proof.Machine

/-- The sequencer has a step exactly when `STATUS = BUSY` (R201). -/
def State.hasStep (s : State) : Bool := s.status == .busy

/-- `Step()` (R202): fetch, decode, execute. -/
def sequencerStep (s : State) : Result :=
  match decode (fetch s) with
  | .error _ => raiseFault .illegalDescriptor s
  | .ok i => exec i s

/-- The sequencer's turn: its step, or no change when it has none (R201; log 5). -/
def sequencerTurn (s : State) : Result :=
  if s.hasStep then sequencerStep s else .next s

/-- One move of the machine. An empty inbox leaves the turn to the sequencer. A DELIVER waits at the head of the inbox
while `STATUS = BUSY` and the sequencer goes on (R222). -/
def turn (s : State) : Result :=
  match s.inbox with
  | [] => sequencerTurn s
  | .pass :: rest => sequencerTurn { s with inbox := rest }
  | .deliver F :: rest =>
    if s.frReady then .next ({ s with inbox := rest }.deliver F) else sequencerTurn s
  | .read n :: rest => .next ({ s with inbox := rest }.takeRead n)
  | .reset :: rest => .next { s with inbox := rest }.resetBlock

/-- A state whose next move is the sequencer's step of the given descriptor byte: the byte stands where `DPC` points, a
frame is being decoded, and the host has nothing to do (log 4). -/
def State.readyToRun (s : State) (word : Byte) : State :=
  { s with params := withDescriptor s.params s.dpc word, status := .busy, inbox := [] }

end Sys2Proof.Machine
end

