-- ==== Sys2Proof/Machine/Step.lean ====
section
/-! DEFINITION. The step of the machine, and the placing of one instruction where it fetches next. -/

namespace Sys2Proof.Machine

/-- One step: the move that the inbox and `STATUS` give (R6, R201, R220). -/
def step (s : State) : Host.Outcome State Fault Refusal :=
  turn s

/-- The state with an opcode-table word where the next step fetches, ready to run it (log 4). -/
def State.withFetchWord (s : State) (nbits w : Nat) : State :=
  s.readyToRun (tableByte nbits w)

end Sys2Proof.Machine
end

