-- ==== Sys2Proof/Machine/Assembler.lean ====
section
/-! DEFINITION. The assembly text (30_encoding.md R108), the pseudo-instructions GRP and REPORT (R109, R110), and the
assembler. Text is a list of characters. -/

namespace Sys2Proof.Machine

/-- `GRP g, w, r` (R109). -/
def expandGrp (g : Group) (w : AxisWidth) (r : Bool) : List Instr :=
  [.slm g, .sld g, .sla g .x w, .sla g .y w, .sla g .z w, .lds g r, .cnv g .x, .cnv g .y, .cnv g .z]

/-- `REPORT` (R110). -/
def expandReport : List Instr :=
  [.slo .sig, .slo .temp, .slo .ts] ++ expandGrp .ang .w3 false ++ expandGrp .acc .w3 false
    ++ expandGrp .mag .w2 true ++ [.endRun]

/-- The descriptors a line stands for. -/
def expand : Asm → List Instr
  | .instr i => [i]
  | .grp g w r => expandGrp g w r
  | .report => expandReport

/-- The words of a program. -/
def assemble (program : List Asm) : List Byte :=
  (program.flatMap expand).map encode

def groupName : Group → List Char
  | .ang => "ANG".toList
  | .acc => "ACC".toList
  | .mag => "MAG".toList

def axisName : Axis → List Char
  | .x => "x".toList
  | .y => "y".toList
  | .z => "z".toList

def opaqueName : OpaqueField → List Char
  | .sig => "SIG".toList
  | .temp => "TEMP".toList
  | .ts => "TS".toList

def widthName : AxisWidth → List Char
  | .w2 => "2".toList
  | .w3 => "3".toList

def flagName (r : Bool) : List Char :=
  if r then "1".toList else "0".toList

/-- Mnemonic, a space, and the operands separated by commas (R108). -/
def lineText (mnemonic : String) : List (List Char) → List Char
  | [] => mnemonic.toList
  | first :: more => mnemonic.toList ++ ' ' :: first ++ more.flatMap fun operand => ", ".toList ++ operand

/-- The assembly text of a line (R108 to R110). -/
def asmText : Asm → List Char
  | .instr (.slo f) => lineText "SLO" [opaqueName f]
  | .instr (.slm g) => lineText "SLM" [groupName g]
  | .instr (.sld g) => lineText "SLD" [groupName g]
  | .instr (.sla g a w) => lineText "SLA" [groupName g, axisName a, widthName w]
  | .instr (.lds g r) => lineText "LDS" [groupName g, flagName r]
  | .instr (.cnv g a) => lineText "CNV" [groupName g, axisName a]
  | .instr .endRun => lineText "END" []
  | .grp g w r => lineText "GRP" [groupName g, widthName w, flagName r]
  | .report => lineText "REPORT" []

/-- A word as a listing writes it: `0x` and two uppercase digits (R104, R108). -/
def wordText (d : Byte) : List Char :=
  let digit := fun n => "0123456789ABCDEF".toList.getD n '?'
  "0x".toList ++ [digit (d.toNat / 16), digit (d.toNat % 16)]

/-- A ROM index in decimal. -/
def indexText (n : Nat) : List Char :=
  let digit := fun k => "0123456789".toList.getD k '?'
  if n < 10 then [digit n] else [digit (n / 10), digit (n % 10)]

/-- A listing line `index: word  assembly` (R108), for an index of the ROM. -/
def listingLine (index : Nat) (i : Instr) : List Char :=
  indexText index ++ ": ".toList ++ wordText (encode i) ++ "  ".toList ++ asmText (.instr i)

/-- The tokens of a line up to its comment: words, and each comma by itself. Blanks separate (log 15). -/
def tokensFrom (word : List Char) : List Char → List (List Char)
  | [] => if word.isEmpty then [] else [word.reverse]
  | c :: rest =>
    let done := if word.isEmpty then [] else [word.reverse]
    if c = ';' then done
    else if c = ' ' ∨ c = '\t' then done ++ tokensFrom [] rest
    else if c = ',' then done ++ [','] :: tokensFrom [] rest
    else tokensFrom (c :: word) rest

def tokens (line : List Char) : List (List Char) :=
  tokensFrom [] line

def groupOfName (t : List Char) : Option Group :=
  [Group.ang, .acc, .mag].find? fun g => groupName g == t

def axisOfName (t : List Char) : Option Axis :=
  [Axis.x, .y, .z].find? fun a => axisName a == t

def opaqueOfName (t : List Char) : Option OpaqueField :=
  [OpaqueField.sig, .temp, .ts].find? fun f => opaqueName f == t

def widthOfName (t : List Char) : Option AxisWidth :=
  [AxisWidth.w2, .w3].find? fun w => widthName w == t

def flagOfName (t : List Char) : Option Bool :=
  [false, true].find? fun r => flagName r == t

/-- The operands of a line: tokens at the odd places must be commas. -/
def operandsOf : List (List Char) → Option (List (List Char))
  | [] => some []
  | [t] => if t = [','] then none else some [t]
  | t :: comma :: rest =>
    if t ≠ [','] ∧ comma = [','] ∧ rest ≠ [] then (operandsOf rest).map (t :: ·) else none

/-- A line of the assembler's input. -/
inductive Line where
  /-- Only blanks or a comment. -/
  | blank
  | code (a : Asm)
  /-- No line of R108 to R110. -/
  | bad
deriving DecidableEq, Repr

/-- A mnemonic with its operands. -/
def asmOf (mnemonic : List Char) (operands : List (List Char)) : Option Asm :=
  match operands with
  | [] =>
    if mnemonic = "END".toList then some (.instr .endRun)
    else if mnemonic = "REPORT".toList then some .report
    else none
  | [a] =>
    if mnemonic = "SLO".toList then (opaqueOfName a).map fun f => .instr (.slo f)
    else if mnemonic = "SLM".toList then (groupOfName a).map fun g => .instr (.slm g)
    else if mnemonic = "SLD".toList then (groupOfName a).map fun g => .instr (.sld g)
    else none
  | [a, b] =>
    if mnemonic = "LDS".toList then
      (groupOfName a).bind fun g => (flagOfName b).map fun r => .instr (.lds g r)
    else if mnemonic = "CNV".toList then
      (groupOfName a).bind fun g => (axisOfName b).map fun ax => .instr (.cnv g ax)
    else none
  | [a, b, c] =>
    if mnemonic = "SLA".toList then
      (groupOfName a).bind fun g => (axisOfName b).bind fun ax => (widthOfName c).map fun w => .instr (.sla g ax w)
    else if mnemonic = "GRP".toList then
      (groupOfName a).bind fun g => (widthOfName b).bind fun w => (flagOfName c).map fun r => .grp g w r
    else none
  | _ => none

/-- The reading of one line (R108). -/
def parseLine (line : List Char) : Line :=
  match tokens line with
  | [] => .blank
  | mnemonic :: rest =>
    match (operandsOf rest).bind (asmOf mnemonic) with
    | some a => .code a
    | none => .bad

end Sys2Proof.Machine
end

