-- ==== Sys2Proof/Machine/Instances.lean ====
section
/-! DEFINITION. Several decoder instances side by side (60_exceptions.md R268): each has its whole state, they share
only the read-only parameters, and which instance moves next is an argument (log 14). -/

namespace Sys2Proof.Machine

/-- `INSTANCES` copies of the block. -/
structure System where
  decoders : List State
deriving DecidableEq, Repr

/-- `n` instances after reset over the same parameters. -/
def System.start (n : Nat) (p : Params) : System :=
  ⟨List.replicate n { State.reset with params := p }⟩

/-- One move of instance `k`; without such an instance, or where the move stops, nothing changes. -/
def System.move (sys : System) (k : Nat) : System :=
  match sys.decoders[k]? with
  | none => sys
  | some s =>
    match step s with
    | .next t => ⟨sys.decoders.set k t⟩
    | .fault _ => sys
    | .refused _ => sys

end Sys2Proof.Machine
end

