-- ==== Sys2Proof/Machine/Render.lean ====
section
/-! DEFINITION. The host-side text that the spec settles (44_host.md R232 to R234), outside the block (R236): `HEX` and
the hex lines whose names NRV spells. The text of a vector component and the names behind "…" are not defined by the
spec and have no definition here (R233, R235, U18; log 16). Text is a list of characters. -/

namespace Sys2Proof.Machine

/-- One lowercase hexadecimal digit (R232). -/
def hexDigit (n : Nat) : Char :=
  "0123456789abcdef".toList.getD n '?'

/-- A byte as two digits, most significant first (R232). -/
def hexByte (b : Byte) : List Char :=
  [hexDigit (b.toNat / 16), hexDigit (b.toNat % 16)]

/-- `HEX(L)` (R232): the bytes joined by single spaces. -/
def hexText : List Byte → List Char
  | [] => []
  | [b] => hexByte b
  | b :: rest => hexByte b ++ ' ' :: hexText rest

/-- `"<name>: <hex bytes>"` (R234). -/
def hexLine (name : String) (bytes : List Byte) : List Char :=
  name.toList ++ ": ".toList ++ hexText bytes

/-- The hex lines whose names R233 spells out, in its order. The spec speaks of them after DONE (R224, R234); of a register
whose written flag is 0, which holds no value (R36), the model renders the bytes that stand in State without looking at the
flag (DESIGN CHOICE, log 20). -/
def State.hexLines (s : State) : List (List Char) :=
  [hexLine "signature" s.sig.toList,
   hexLine "temperature" s.temp.toList,
   hexLine "timestamp" s.ts.toList,
   hexLine "angular_multiplier" s.mulb.ang.toList,
   hexLine "angular_divisor" s.divb.ang.toList,
   hexLine "angular_velocity_x" s.axb.ang.x.bytes,
   hexLine "angular_velocity_y" s.axb.ang.y.bytes,
   hexLine "angular_velocity_z" s.axb.ang.z.bytes,
   hexLine "acceleration_multiplier" s.mulb.acc.toList,
   hexLine "magnetic_multiplier" s.mulb.mag.toList]

end Sys2Proof.Machine
end

