-- ==== Sys2Proof/Machine/Report.lean ====
section
/-! DEFINITION. The registers a decode fills, as a view of the state and as the pure function `DecodeReport` (43_control.md
R211), which reads nothing but the frame; and the Decoded Report that is read from them, with the hexadecimal text of
every sub-field (10_state.md R39). -/

namespace Sys2Proof.Machine

/-- The registers of one sensor group. `m`, `d` and `raw` are for verification: R211 and R212 compare them, and they are no
part of the Decoded Report (R39). -/
structure GroupRegisters where
  mulb : Bytes 2
  divb : Bytes 4
  axb : PerAxis AxisBytes
  m : Int
  d : Int
  raw : PerAxis Int
  vec : PerAxis Word64
deriving DecidableEq, Repr

/-- Every register a decode fills, which is what R212 compares. The Decoded Report is read from these
(`ReportRegisters.decoded`). -/
structure ReportRegisters where
  sig : Bytes 2
  temp : Bytes 2
  ts : Bytes 8
  groups : PerGroup GroupRegisters
deriving DecidableEq, Repr

/-- A value for each axis. -/
def perAxis {α : Type} (f : Axis → α) : PerAxis α :=
  ⟨f .x, f .y, f .z⟩

/-- The registers of a group in a state. -/
def State.groupRegisters (s : State) (g : Group) : GroupRegisters where
  mulb := s.mulb.get g
  divb := s.divb.get g
  axb := s.axb.get g
  m := (s.m.get g).toInt
  d := (s.d.get g).toInt
  raw := perAxis fun a => (s.raw.at2 g a).toInt
  vec := s.vec.get g

/-- The registers of a state that a decode fills (R212). It shows the bits that stand in State without looking at the flags
(DESIGN CHOICE, log 20). -/
def State.report (s : State) : ReportRegisters where
  sig := s.sig
  temp := s.temp
  ts := s.ts
  groups := ⟨s.groupRegisters .ang, s.groupRegisters .acc, s.groupRegisters .mag⟩

/-! ## The Decoded Report -/

/-- The Decoded Report of NRV §3 (R39): the three opaque fields, the three Sensor Vectors, and the hexadecimal text of each
of the 18 sub-fields, in R39's order. -/
structure DecodedReport where
  signature : Bytes 2
  temperature : Bytes 2
  timestamp : Bytes 8
  /-- The angular velocity, acceleration and magnetic vectors. -/
  vectors : PerGroup (PerAxis Word64)
  /-- `HEX` of `SIG`, `TEMP`, `TS`, then for each group `MULB`, `DIVB` and the axes x, y, z. -/
  rawHex : List (List Char)
deriving DecidableEq, Repr

/-- The raw bytes of a group's five sub-fields: `MULB`, `DIVB`, and the first `AXN` bytes of each axis (R39). -/
def GroupRegisters.subFields (g : GroupRegisters) : List (List Byte) :=
  [g.mulb.toList, g.divb.toList, g.axb.x.bytes, g.axb.y.bytes, g.axb.z.bytes]

/-- The raw bytes of the 18 sub-fields, in R39's order. -/
def ReportRegisters.subFields (r : ReportRegisters) : List (List Byte) :=
  [r.sig.toList, r.temp.toList, r.ts.toList] ++ r.groups.ang.subFields ++ r.groups.acc.subFields
    ++ r.groups.mag.subFields

/-- The Decoded Report read from the registers (R39). -/
def ReportRegisters.decoded (r : ReportRegisters) : DecodedReport where
  signature := r.sig
  temperature := r.temp
  timestamp := r.ts
  vectors := ⟨r.groups.ang.vec, r.groups.acc.vec, r.groups.mag.vec⟩
  rawHex := r.subFields.map hexText

/-- The Decoded Report as a view of the state (R39). It is a report when `STATUS = DONE` after the canonical program; of
any other state it shows what stands in State (log 20). -/
def State.decodedReport (s : State) : DecodedReport :=
  s.report.decoded

/-- Offset and length of the 18 fields of the wire layout (R67), in the order of the table. -/
def wireLayout : List (Nat × Nat) :=
  [(0, 2), (2, 2), (4, 8),
   (12, 2), (14, 4), (18, 3), (21, 3), (24, 3),
   (27, 2), (29, 4), (33, 3), (36, 3), (39, 3),
   (42, 2), (44, 4), (48, 2), (50, 2), (52, 2)]

/-! ## DecodeReport -/

/-- `F[i .. i+n-1]` (R211). -/
def subList (F : List Byte) (i n : Nat) : Bytes n :=
  Vector.ofFn fun k => F.getD (i + k.val) 0

/-- The axis field `F[base+6+a·w .. base+6+a·w+w−1]` (R211). -/
def frameAxis (F : List Byte) (base : Nat) (w : AxisWidth) (a : Axis) : AxisBytes :=
  .ofSlice w (subList F (base + 6 + a.num.toNat * w.bytes) w.bytes)

/-- The body of R211's loop for one group. -/
def decodeGroup (nanBits : Word64) (F : List Byte) (base : Nat) (w : AxisWidth) (r : Bool) : GroupRegisters :=
  let mulb : Bytes 2 := subList F base 2
  let divb : Bytes 4 := subList F (base + 2) 4
  let m := mul16 (if r then mulb.rev else mulb)
  let d := div32 (if r then divb.rev else divb)
  { mulb := mulb
    divb := divb
    axb := perAxis (frameAxis F base w)
    m := m
    d := d
    raw := perAxis fun a => rawOf (frameAxis F base w a)
    vec := perAxis fun a =>
      fdiv nanBits (fmul nanBits (fp (rawOf (frameAxis F base w a))) (fp m)) (fp d) }

/-- `DecodeReport(F)` (R211), `none` for rejected: the Decoded Report's registers, with M, D and RAW for verification. -/
def decodeReport (nanBits : Word64) (F : List Byte) : Option ReportRegisters :=
  if F.length ≠ Config.reportLen then none
  else some
    { sig := subList F 0 2
      temp := subList F 2 2
      ts := subList F 4 8
      groups :=
        ⟨decodeGroup nanBits F 12 .w3 false, decodeGroup nanBits F 27 .w3 false, decodeGroup nanBits F 42 .w2 true⟩ }

end Sys2Proof.Machine
end

