-- ==== Sys2Proof/WellFormed.lean ====
section
/-! DEFINITION. The checks a reader can apply before anything runs: which descriptor words are legal (the opcode table
as rows, 30_encoding.md R88, R90, R92), and which programs respect the ordering constraints that
70_reset_and_hazards.md R287 lists for whoever writes a ROM. -/

namespace Sys2Proof

/-- One row of R88: a word `d` selects it when `d & mask = pattern` and the constraints hold. -/
structure Row where
  mask : Byte
  pattern : Byte
  /-- constraint `gg ≠ 3` -/
  groupLegal : Bool
  /-- constraint `aa ≠ 3` or `ff ≠ 3` -/
  selLegal : Bool
deriving DecidableEq, Repr

/-- The rows of R88, in its order: SLO, SLM, SLD, SLA, LDS, CNV, END. -/
def opcodeRows : List Row :=
  [⟨0xF9, 0x20, false, true⟩, ⟨0xE7, 0x40, true, false⟩, ⟨0xE7, 0x60, true, false⟩, ⟨0xE0, 0x80, true, true⟩,
   ⟨0xE6, 0xA0, true, false⟩, ⟨0xE1, 0xC0, true, true⟩, ⟨0xFF, 0xE0, false, false⟩]

/-- Does the word select the row, its constraints included (R88, R90)? -/
def Row.selects (row : Row) (d : Byte) : Bool :=
  (d &&& row.mask == row.pattern) && (!row.groupLegal || d.extractLsb' 3 2 != 3)
    && (!row.selLegal || d.extractLsb' 1 2 != 3)

/-- A legal descriptor word (R90, R92). -/
def wellFormedWord (d : Byte) : Bool :=
  opcodeRows.any fun row => row.selects d

/-- Why a program breaks a constraint of R287. -/
inductive ProgramError where
  /-- LDS before both the SLM and the SLD of its group. -/
  | scaleBytesMissing (index : Nat)
  /-- CNV before both the SLA of its axis and the LDS of its group. -/
  | axisOrScaleMissing (index : Nat)
  /-- The widths of the slices sum to more than 64. -/
  | slicesTooWide (index : Nat)
  /-- An instruction other than END at index 31. -/
  | endTooLate
  /-- The program stops without END. -/
  | noEnd
deriving DecidableEq, Repr

/-- What a program has done so far, as R287 counts it. -/
structure Progress where
  sliced : Nat
  mulb : PerGroup Bool
  divb : PerGroup Bool
  axb : PerGroup (PerAxis Bool)
  scale : PerGroup Bool
deriving DecidableEq, Repr

def Progress.start : Progress where
  sliced := 0
  mulb := .all false
  divb := .all false
  axb := .all (.all false)
  scale := .all false

/-- May the instruction come next (R287)? `index` is its place in the ROM. -/
def Progress.check (p : Progress) (index : Nat) : Instr → Except ProgramError Unit
  | .slo f => if p.sliced + f.width ≤ 64 then .ok () else .error (.slicesTooWide index)
  | .slm _ => if p.sliced + 2 ≤ 64 then .ok () else .error (.slicesTooWide index)
  | .sld _ => if p.sliced + 4 ≤ 64 then .ok () else .error (.slicesTooWide index)
  | .sla _ _ w => if p.sliced + w.bytes ≤ 64 then .ok () else .error (.slicesTooWide index)
  | .lds g _ => if p.mulb.get g && p.divb.get g then .ok () else .error (.scaleBytesMissing index)
  | .cnv g a => if p.axb.at2 g a && p.scale.get g then .ok () else .error (.axisOrScaleMissing index)
  | .endRun => .ok ()

/-- The progress after the instruction. -/
def Progress.after (p : Progress) : Instr → Progress
  | .slo f => { p with sliced := p.sliced + f.width }
  | .slm g => { p with sliced := p.sliced + 2, mulb := p.mulb.set g true }
  | .sld g => { p with sliced := p.sliced + 4, divb := p.divb.set g true }
  | .sla g a w => { p with sliced := p.sliced + w.bytes, axb := p.axb.set2 g a true }
  | .lds g _ => { p with scale := p.scale.set g true }
  | .cnv _ _ => p
  | .endRun => p

/-- The constraints of R287 from index `index` on: what follows an END is never reached and not checked. -/
def Progress.checkFrom (p : Progress) (index : Nat) : List Instr → Except ProgramError Unit
  | [] => .error .noEnd
  | .endRun :: _ => if index ≤ 31 then .ok () else .error .endTooLate
  | i :: rest =>
    match p.check index i with
    | .error e => .error e
    | .ok () => if index < 31 then (p.after i).checkFrom (index + 1) rest else .error .endTooLate

/-- A program respects every constraint of R287. -/
def checkProgram (program : List Instr) : Except ProgramError Unit :=
  Progress.start.checkFrom 0 program

def wellFormedProgram (program : List Instr) : Bool :=
  match checkProgram program with
  | .ok () => true
  | .error _ => false

end Sys2Proof
end

