-- ==== Sys2Proof/Safety.lean ====
section
/-! DEFINITION. The terms in which statements about the machine are written: the end of a run (43_control.md R210), the
invariant of the machine, what the host may rely on seeing (44_host.md R226, R229), and the faulted state (60_exceptions.md
R262). -/

namespace Sys2Proof.Machine

/-- A run is over (R210). -/
def State.over (s : State) : Prop :=
  s.status = .done ∨ s.status = .rejected ∨ s.status = .fault

/-- A good end (R210): `FAULT` never is one. -/
def State.goodEnd (s : State) : Prop :=
  s.status = .done ∨ s.status = .rejected

/-- `n` steps of the machine. -/
def runFor (n : Nat) (s : State) : Result :=
  Sys2Proof.core.run n s

/-- The state after fault entry with a cause, written out (R262). -/
def faulted (c : Cause) (s : State) : State :=
  { s with status := .fault, fcause := c, fdpc := s.dpc, fcur := s.cur }

/-- The instruction slices bytes. -/
def isSlice : Instr → Bool
  | .slo _ => true
  | .slm _ => true
  | .sld _ => true
  | .sla _ _ _ => true
  | .lds _ _ => false
  | .cnv _ _ => false
  | .endRun => false

/-- A source register of the instruction holds no value (R257). -/
def State.sourceMissing (s : State) : Instr → Prop
  | .lds g _ => s.written.mulbW.get g = false ∨ s.written.divbW.get g = false
  | .cnv g a => s.written.axbW.at2 g a = false ∨ s.written.scaleW.get g = false
  | _ => False

/-- The slice of the instruction would leave the buffer (R258). -/
def State.overruns (s : State) (i : Instr) : Prop :=
  isSlice i = true ∧ s.cur.toNat + i.sliceWidth > 64

/-- The bytes of the buffer from an address on, lowest first. -/
def bytesAt (mem : Memory) (addr n : Nat) : List Byte :=
  (List.range n).map fun i => mem.read (addr + i)

/-- An opaque register as a byte list (R30). -/
def State.opaqueBytes (s : State) : OpaqueField → List Byte
  | .sig => s.sig.toList
  | .temp => s.temp.toList
  | .ts => s.ts.toList

/-- `L` stands on a 64-bit port with byte `k` at bits `8k+7 : 8k` and zeros above (R225). -/
def BytesOnPort (v : Word64) (L : List Byte) : Prop :=
  (∀ k, ∀ h : k < L.length, v.extractLsb' (8 * k) 8 = L[k]) ∧ v.toNat < 2 ^ (8 * L.length)

/-- What no move of the machine breaks. -/
structure Inv (s : State) : Prop where
  bufferCanonical : s.rb.wf = true
  cursorInBuffer : s.cur.toNat ≤ 64
  faultHasCause : s.fcause ≠ .none ↔ s.status = .fault
  faultHasPosition : s.status = .fault → s.fdpc = s.dpc ∧ s.fcur = s.cur
  noFaultNoPosition : s.status ≠ .fault → s.fdpc = 0 ∧ s.fcur = 0
  romOverrunAtEnd : s.fcause = .romOverrun → s.dpc = 31
  decodesFullFrames : s.status = .busy ∨ s.status = .done ∨ s.status = .fault → s.len = 64
  rejectsOtherFrames : s.status = .rejected → s.len ≠ 64
  idleHasNoFrame : s.status = .idle → s.len = 0
  nothingWithoutFrame : s.status = .idle ∨ s.status = .rejected → s.written = .clear ∧ s.cur = 0 ∧ s.dpc = 0
  scaleHasBytes : ∀ g, s.written.scaleW.get g = true → s.written.mulbW.get g = true ∧ s.written.divbW.get g = true
  vectorHasSources : ∀ g a, s.written.vecW.at2 g a = true →
    s.written.axbW.at2 g a = true ∧ s.written.scaleW.get g = true

/-- Two states show a host the same: the status registers, the flags, and every data register that holds a value
(R36, R226). What stands behind a flag that is 0 may differ. -/
structure SameVisible (s t : State) : Prop where
  status : s.status = t.status
  len : s.len = t.len
  fcause : s.fcause = t.fcause
  fdpc : s.fdpc = t.fdpc
  fcur : s.fcur = t.fcur
  cur : s.cur = t.cur
  dpc : s.dpc = t.dpc
  written : s.written = t.written
  sig : s.written.sigW = true → s.sig = t.sig
  temp : s.written.tempW = true → s.temp = t.temp
  ts : s.written.tsW = true → s.ts = t.ts
  mulb : ∀ g, s.written.mulbW.get g = true → s.mulb.get g = t.mulb.get g
  divb : ∀ g, s.written.divbW.get g = true → s.divb.get g = t.divb.get g
  axb : ∀ g a, s.written.axbW.at2 g a = true → s.axb.at2 g a = t.axb.at2 g a
  scale : ∀ g, s.written.scaleW.get g = true → s.m.get g = t.m.get g ∧ s.d.get g = t.d.get g
  vec : ∀ g a, s.written.vecW.at2 g a = true → s.raw.at2 g a = t.raw.at2 g a ∧ s.vec.at2 g a = t.vec.at2 g a

/-- What every instruction leaves alone when it takes effect: the parameters, the host's side, `LEN`, the fault record,
and every byte of the buffer. -/
structure SameAround (s t : State) : Prop where
  params : t.params = s.params
  inbox : t.inbox = s.inbox
  answers : t.answers = s.answers
  draws : t.draws = s.draws
  len : t.len = s.len
  fcause : t.fcause = s.fcause
  fdpc : t.fdpc = s.fdpc
  fcur : t.fcur = s.fcur
  buffer : ∀ a, t.rb.read a = s.rb.read a

/-- The field registers but for those named by the exceptions. -/
structure SameFields (s t : State) (opaqueTo : OpaqueField → Prop) (mulbTo divbTo : Group → Prop)
    (axbTo : Group → Axis → Prop) : Prop where
  opaqueRegs : ∀ f, ¬ opaqueTo f → t.opaqueBytes f = s.opaqueBytes f
  mulb : ∀ g, ¬ mulbTo g → t.mulb.get g = s.mulb.get g
  divb : ∀ g, ¬ divbTo g → t.divb.get g = s.divb.get g
  axb : ∀ g a, ¬ axbTo g a → t.axb.at2 g a = s.axb.at2 g a

/-- The scale and result registers but for those named by the exceptions. -/
structure SameResults (s t : State) (scaleTo : Group → Prop) (vecTo : Group → Axis → Prop) : Prop where
  m : ∀ g, ¬ scaleTo g → t.m.get g = s.m.get g
  d : ∀ g, ¬ scaleTo g → t.d.get g = s.d.get g
  raw : ∀ g a, ¬ vecTo g a → t.raw.at2 g a = s.raw.at2 g a
  vec : ∀ g a, ¬ vecTo g a → t.vec.at2 g a = s.vec.at2 g a

/-- The one flag an instruction sets, by its bit of `WFLAGS` (R36); END sets none. -/
def flagPosition : Instr → Option Nat
  | .slo f => some f.num.toNat
  | .slm g => some (3 + g.num.toNat)
  | .sld g => some (6 + g.num.toNat)
  | .sla g a _ => some (9 + 3 * g.num.toNat + a.num.toNat)
  | .lds g _ => some (18 + g.num.toNat)
  | .cnv g a => some (21 + 3 * g.num.toNat + a.num.toNat)
  | .endRun => none

/-- `WFLAGS` after an instruction that took effect: the one bit is set, every other stays (R36). -/
def flagsAfter (w : BitVec 32) (i : Instr) : BitVec 32 :=
  match flagPosition i with
  | some k => w ||| BitVec.ofNat 32 (2 ^ k)
  | none => w

/-- The bytes a list of instructions slices (R130). -/
def slicedBy (program : List Instr) : Nat :=
  (program.map Instr.sliceWidth).sum

/-- A decode of the canonical program is on its way (R104, R105): no fault is recorded, and while a frame is being decoded
DPC is at most 30 and CUR and WFLAGS are what the first DPC descriptors of the program leave. -/
structure CanonicalProgress (s : State) : Prop where
  rom : s.params.layoutRom = Config.canonicalRom
  noFault : s.status ≠ .fault
  noCause : s.fcause = .none
  beforeEnd : s.status = .busy → s.dpc.toNat ≤ 30
  cursor : s.status = .busy → s.cur.toNat = slicedBy (expandReport.take s.dpc.toNat)
  flags : s.status = .busy → s.written.word = (expandReport.take s.dpc.toNat).foldl flagsAfter 0

/-- A register file with its groups renamed: group `g` of the new one is group `π g` of the old. -/
def renameGroups {α : Type} (π : Equiv.Perm Group) (p : PerGroup α) : PerGroup α :=
  ⟨p.get (π .ang), p.get (π .acc), p.get (π .mag)⟩

/-- A state with the groups of all its register files and flags renamed. -/
def renameState (π : Equiv.Perm Group) (s : State) : State :=
  { s with
    mulb := renameGroups π s.mulb
    divb := renameGroups π s.divb
    axb := renameGroups π s.axb
    m := renameGroups π s.m
    d := renameGroups π s.d
    raw := renameGroups π s.raw
    vec := renameGroups π s.vec
    written :=
      { s.written with
        mulbW := renameGroups π s.written.mulbW
        divbW := renameGroups π s.written.divbW
        axbW := renameGroups π s.written.axbW
        scaleW := renameGroups π s.written.scaleW
        vecW := renameGroups π s.written.vecW } }

/-- The instruction on the renamed groups. -/
def renameInstr (π : Equiv.Perm Group) : Instr → Instr
  | .slo f => .slo f
  | .slm g => .slm (π.symm g)
  | .sld g => .sld (π.symm g)
  | .sla g a w => .sla (π.symm g) a w
  | .lds g r => .lds (π.symm g) r
  | .cnv g a => .cnv (π.symm g) a
  | .endRun => .endRun

end Sys2Proof.Machine
end

