-- ==== Sys2Proof/Certificates/Slice0/Obligations.lean ====
section
/-! DEFINITION. The statements for the provers. Each docstring names the rule of spec/ it formalises. A statement that
rests on a choice of the model names the log entry. -/

open Sys2Proof Sys2Proof.Machine

/-! ## Encoding -/

/-- 30_encoding.md R90: a word is exactly one instruction with its operands, or illegal: decoding and encoding are
inverse in both directions. -/
def Obligations.DecodeAndEncodeAreInverse : Prop :=
  ∀ (d : Byte) (i : Instr), decode d = .ok i ↔ encode i = d

/-- 30_encoding.md R88, R92: the decoder accepts exactly the words that select a row of the opcode table with its
constraints, and no word selects two rows. -/
def Obligations.LegalWordsAreTheTableRows : Prop :=
  ∀ d : Byte, ((∃ i, decode d = .ok i) ↔ wellFormedWord d = true) ∧
    (opcodeRows.filter fun row => row.selects d).length ≤ 1

/-- 30_encoding.md R91: 43 legal descriptor words and 213 illegal ones; 3, 3, 3, 18, 6, 9 and 1 of the rows SLO, SLM, SLD,
SLA, LDS, CNV and END. -/
def Obligations.WordCounts : Prop :=
  ((List.range 256).filter fun n => (decodeTableWord 8 n).isSome).length = 43 ∧
    ((List.range 256).filter fun n => (decodeTableWord 8 n).isNone).length = 213 ∧
    (opcodeRows.map fun row => ((List.range 256).filter fun n => row.selects (BitVec.ofNat 8 n)).length) =
      [3, 3, 3, 18, 6, 9, 1]

/-- 30_encoding.md R104: words of the canonical program, one for each operation, decode to the instructions beside them
there. -/
def Obligations.CanonicalWordsDecode : Prop :=
  decode 0x24 = .ok (.slo .ts) ∧ decode 0x48 = .ok (.slm .acc) ∧ decode 0x70 = .ok (.sld .mag) ∧
    decode 0x8B = .ok (.sla .acc .y .w3) ∧ decode 0x92 = .ok (.sla .mag .y .w2) ∧
    decode 0xB1 = .ok (.lds .mag true) ∧ decode 0xD4 = .ok (.cnv .mag .z) ∧ decode 0xE0 = .ok .endRun ∧
    (∀ i, decode 0x00 ≠ .ok i)

/-- 30_encoding.md R109, R110, R104: GRP expands to nine descriptors in the stated order, and the words of REPORT are the
31 descriptors of the canonical program. -/
def Obligations.PseudoInstructionsExpand : Prop :=
  (∀ g w r, expand (.grp g w r) =
    [.slm g, .sld g, .sla g .x w, .sla g .y w, .sla g .z w, .lds g r, .cnv g .x, .cnv g .y, .cnv g .z]) ∧
    assemble [.report] = Config.canonicalRom.toList.take 31

/-- 30_encoding.md R108: the text of every line reads back as that line, also with a comment after it. -/
def Obligations.AssemblyTextReadsBack : Prop :=
  ∀ (a : Asm) (comment : List Char), parseLine (asmText a) = .code a ∧
    parseLine (asmText a ++ ' ' :: ';' :: comment) = .code a

/-! ## Unpacking -/

/-- 41_unpack.md R140, R141: sign extension of a byte, its pinned values, its injectivity and its residue. -/
def Obligations.SignExtensionOfAByte : Prop :=
  (∀ v : Byte, sext8 v = (if v.toNat < 128 then (v.toNat : Int) else (v.toNat : Int) - 256)) ∧
    sext8 0xFF = -1 ∧ sext8 0x7F = 127 ∧ sext8 0x80 = -128 ∧ sext8 0x00 = 0 ∧ sext8 0x01 = 1 ∧ sext8 0x81 = -127 ∧
    sext8 0xFE = -2 ∧
    (∀ v w : Byte, sext8 v = sext8 w → v = w) ∧ ∀ v : Byte, sext8 v % 256 = v.toNat

/-- 41_unpack.md R143: MUL16 is the 16-bit two's-complement reading of the little-endian pair; it runs from -32768 to
32767 with the stated ends, and every value of the range has exactly one encoding. -/
def Obligations.MultiplierReading : Prop :=
  (∀ lo hi : Byte, mul16 #v[lo, hi] =
    (if lo.toNat + 256 * hi.toNat < 32768 then (lo.toNat + 256 * hi.toNat : Int)
      else (lo.toNat + 256 * hi.toNat : Int) - 65536)) ∧
    (∀ L, -32768 ≤ mul16 L ∧ mul16 L ≤ 32767) ∧ mul16 #v[0x00, 0x80] = -32768 ∧ mul16 #v[0xFF, 0x7F] = 32767 ∧
    ∀ v : Int, -32768 ≤ v → v ≤ 32767 → ∃ L, mul16 L = v ∧ ∀ L', mul16 L' = v → L' = L

/-- 41_unpack.md R145: DIV32 is the 32-bit two's-complement reading of the little-endian quadruple, with the stated range
ends, and it is 0 exactly when all four bytes are 0. -/
def Obligations.DivisorReading : Prop :=
  (∀ b0 b1 b2 b3 : Byte, div32 #v[b0, b1, b2, b3] =
    (if b0.toNat + 256 * b1.toNat + 65536 * b2.toNat + 16777216 * b3.toNat < 2147483648
      then (b0.toNat + 256 * b1.toNat + 65536 * b2.toNat + 16777216 * b3.toNat : Int)
      else (b0.toNat + 256 * b1.toNat + 65536 * b2.toNat + 16777216 * b3.toNat : Int) - 4294967296)) ∧
    (∀ L, -2147483648 ≤ div32 L ∧ div32 L ≤ 2147483647) ∧
    div32 #v[0x00, 0x00, 0x00, 0x80] = -2147483648 ∧ div32 #v[0xFF, 0xFF, 0xFF, 0x7F] = 2147483647 ∧
    div32 #v[0x01, 0x00, 0x00, 0x00] = 1 ∧
    ∀ L, div32 L = 0 ↔ L = #v[0, 0, 0, 0]

/-- 41_unpack.md R151: RAW3 is the 24-bit two's-complement reading of the little-endian triple, with the stated range
ends. -/
def Obligations.ThreeByteAxisReading : Prop :=
  (∀ b0 b1 b2 : Byte, raw3 #v[b0, b1, b2] =
    (if b0.toNat + 256 * b1.toNat + 65536 * b2.toNat < 8388608
      then (b0.toNat + 256 * b1.toNat + 65536 * b2.toNat : Int)
      else (b0.toNat + 256 * b1.toNat + 65536 * b2.toNat : Int) - 16777216)) ∧
    (∀ L, -8388608 ≤ raw3 L ∧ raw3 L ≤ 8388607) ∧
    raw3 #v[0x00, 0x00, 0x80] = -8388608 ∧ raw3 #v[0xFF, 0xFF, 0x7F] = 8388607

/-- 41_unpack.md R149: the closed form of RAW2, the values it never takes, and its injectivity. -/
def Obligations.TwoByteAxisReading : Prop :=
  (∀ lo hi : Byte, raw2 #v[lo, hi] =
    (if hi.toNat < 128 then (lo.toNat + 256 * hi.toNat : Int) + 32768
      else (lo.toNat + 256 * hi.toNat : Int) - 98304)) ∧
    (∀ L, (32768 ≤ raw2 L ∧ raw2 L ≤ 65535) ∨ (-65536 ≤ raw2 L ∧ raw2 L ≤ -32769)) ∧
    ∀ L L', raw2 L = raw2 L' → L = L'

/-- 41_unpack.md R146: the bias XOR of a sign-extended byte does not depend on the width at which it is taken, from 9
bits up. -/
def Obligations.BiasXorAtEveryWidth : Prop :=
  ∀ (width : Nat) (s : Int), 9 ≤ width → -128 ≤ s → s ≤ 127 →
    bxor80At width s = (if 0 ≤ s then s + 128 else s - 128) ∧ bxor80At width s = bxor80 s

/-- 41_unpack.md R166: the registers M, D and RAW hold every value the unpack functions give, so no result is
truncated. -/
def Obligations.RegistersHoldUnpackedValues : Prop :=
  (∀ L, (BitVec.ofInt 16 (mul16 L)).toInt = mul16 L) ∧ (∀ L, (BitVec.ofInt 32 (div32 L)).toInt = div32 L) ∧
    ∀ field, (BitVec.ofInt 24 (rawOf field)).toInt = rawOf field

/-! ## The instructions: effect, completion and frame -/

/-- 40_slice.md R122: SLO where its slice fits and it is not at index 31. -/
def Obligations.SloEffect : Prop :=
  ∀ (f : OpaqueField) (s : State), s.cur.toNat + f.width ≤ 64 → s.dpc ≠ 31 →
    ∃ t, exec (.slo f) s = .next t ∧ t.opaqueBytes f = bytesAt s.rb s.cur.toNat f.width ∧
      t.cur.toNat = s.cur.toNat + f.width ∧ t.dpc.toNat = s.dpc.toNat + 1 ∧
      t.written.word = flagsAfter s.written.word (.slo f)

/-- 40_slice.md R124: SLM where its slice fits and it is not at index 31; the bytes are stored as read, also for MAG. -/
def Obligations.SlmEffect : Prop :=
  ∀ (g : Group) (s : State), s.cur.toNat + 2 ≤ 64 → s.dpc ≠ 31 →
    ∃ t, exec (.slm g) s = .next t ∧ (t.mulb.get g).toList = bytesAt s.rb s.cur.toNat 2 ∧
      t.cur.toNat = s.cur.toNat + 2 ∧ t.dpc.toNat = s.dpc.toNat + 1 ∧
      t.written.word = flagsAfter s.written.word (.slm g)

/-- 40_slice.md R126: SLD where its slice fits and it is not at index 31; the bytes are stored as read, also for MAG. -/
def Obligations.SldEffect : Prop :=
  ∀ (g : Group) (s : State), s.cur.toNat + 4 ≤ 64 → s.dpc ≠ 31 →
    ∃ t, exec (.sld g) s = .next t ∧ (t.divb.get g).toList = bytesAt s.rb s.cur.toNat 4 ∧
      t.cur.toNat = s.cur.toNat + 4 ∧ t.dpc.toNat = s.dpc.toNat + 1 ∧
      t.written.word = flagsAfter s.written.word (.sld g)

/-- 40_slice.md R128: SLA where its slice fits and it is not at index 31; AXN becomes the width, and after a 2-byte slice
no third byte is left. -/
def Obligations.SlaEffect : Prop :=
  ∀ (g : Group) (a : Axis) (w : AxisWidth) (s : State), s.cur.toNat + w.bytes ≤ 64 → s.dpc ≠ 31 →
    ∃ t, exec (.sla g a w) s = .next t ∧ (t.axb.at2 g a).bytes = bytesAt s.rb s.cur.toNat w.bytes ∧
      (t.axb.at2 g a).axn = w.bytes ∧ t.cur.toNat = s.cur.toNat + w.bytes ∧ t.dpc.toNat = s.dpc.toNat + 1 ∧
      t.written.word = flagsAfter s.written.word (.sla g a w)

/-- 40_slice.md R121, R122, R124, R126, R128: what a slice that takes effect leaves unchanged: everything but its own
destination register, its flag, CUR and DPC. -/
def Obligations.SliceFrame : Prop :=
  ∀ (i : Instr) (s t : State), isSlice i = true → s.cur.toNat + i.sliceWidth ≤ 64 → s.dpc ≠ 31 →
    exec i s = .next t →
    SameAround s t ∧ t.status = s.status ∧
      SameFields s t (fun f => i = .slo f) (fun g => i = .slm g) (fun g => i = .sld g)
        (fun g a => ∃ w, i = .sla g a w) ∧
      SameResults s t (fun _ => False) (fun _ _ => False)

/-- 41_unpack.md R152: LDS with both sources written and not at index 31; with `r` the sign is taken from wire byte 0. -/
def Obligations.LdsEffect : Prop :=
  ∀ (g : Group) (r : Bool) (s : State), s.written.mulbW.get g = true → s.written.divbW.get g = true → s.dpc ≠ 31 →
    ∃ t, exec (.lds g r) s = .next t ∧
      (t.m.get g).toInt =
        (if r then ((s.mulb.get g)[1].toNat : Int) + 256 * sext8 (s.mulb.get g)[0]
          else ((s.mulb.get g)[0].toNat : Int) + 256 * sext8 (s.mulb.get g)[1]) ∧
      (t.d.get g).toInt =
        (if r then ((s.divb.get g)[3].toNat : Int) + 256 * (s.divb.get g)[2].toNat + 65536 * (s.divb.get g)[1].toNat
            + 16777216 * sext8 (s.divb.get g)[0]
          else ((s.divb.get g)[0].toNat : Int) + 256 * (s.divb.get g)[1].toNat + 65536 * (s.divb.get g)[2].toNat
            + 16777216 * sext8 (s.divb.get g)[3]) ∧
      t.dpc.toNat = s.dpc.toNat + 1 ∧ t.written.word = flagsAfter s.written.word (.lds g r)

/-- 42_scale.md R170: CNV with both sources written and not at index 31: the width SLA recorded chooses the unpack rule,
and the result is fdiv(fmul(fp(raw), fp(M)), fp(D)). -/
def Obligations.CnvEffect : Prop :=
  ∀ (g : Group) (a : Axis) (s : State), s.written.axbW.at2 g a = true → s.written.scaleW.get g = true → s.dpc ≠ 31 →
    ∃ t, exec (.cnv g a) s = .next t ∧
      (∀ L, s.axb.at2 g a = .s24 L → (t.raw.at2 g a).toInt = raw3 L) ∧
      (∀ L, s.axb.at2 g a = .b16 L → (t.raw.at2 g a).toInt = raw2 L) ∧
      t.vec.at2 g a = fdiv s.params.nanBits
        (fmul s.params.nanBits (fp (t.raw.at2 g a).toInt) (fp (s.m.get g).toInt)) (fp (s.d.get g).toInt) ∧
      t.dpc.toNat = s.dpc.toNat + 1 ∧ t.written.word = flagsAfter s.written.word (.cnv g a)

/-- 41_unpack.md R152 and 42_scale.md R170: what LDS and CNV leave unchanged when they take effect: everything but the
pair, respectively the two result registers, the flag and DPC; the cursor does not move. -/
def Obligations.ScaleAndConvertFrame : Prop :=
  ∀ (i : Instr) (s t : State), (∃ g r, i = .lds g r) ∨ (∃ g a, i = .cnv g a) → ¬ s.sourceMissing i → s.dpc ≠ 31 →
    exec i s = .next t →
    SameAround s t ∧ t.status = s.status ∧ t.cur = s.cur ∧
      SameFields s t (fun _ => False) (fun _ => False) (fun _ => False) (fun _ _ => False) ∧
      SameResults s t (fun g => ∃ r, i = .lds g r) (fun g a => i = .cnv g a)

/-- 43_control.md R208: END from any state, index 31 included, sets STATUS to DONE and changes nothing else. -/
def Obligations.EndEffectAndFrame : Prop :=
  ∀ s : State, exec .endRun s = .next { s with status := .done }

/-- 43_control.md R203, 30_encoding.md R93: the meaning of an instruction does not depend on the group number beyond
selecting the registers: renaming the groups of the state and of the instruction renames the groups of the result. -/
def Obligations.MeaningIsTheSameForEveryGroup : Prop :=
  ∀ (π : Equiv.Perm Group) (i : Instr) (s t : State), exec i s = .next t →
    exec (renameInstr π i) (renameState π s) = .next (renameState π t)

/-! ## Sequencer faults -/

/-- 60_exceptions.md R260: the checks of a step come in the stated order and the first that fails is the one reported; a
step that fails none raises no fault. -/
def Obligations.FaultChecksInOrder : Prop :=
  ∀ s : State, s.status = .busy → s.inbox = [] →
    (∀ e, decode (fetch s) = .error e → step s = .next (faulted .illegalDescriptor s)) ∧
    ∀ i, decode (fetch s) = .ok i →
      (s.sourceMissing i → step s = .next (faulted .unwrittenSource s)) ∧
      (s.overruns i → step s = .next (faulted .cursorOverrun s)) ∧
      (¬ s.sourceMissing i → ¬ s.overruns i → i ≠ .endRun → s.dpc = 31 → step s = .next (faulted .romOverrun s)) ∧
      (¬ s.sourceMissing i → ¬ s.overruns i → i = .endRun ∨ s.dpc ≠ 31 →
        ∃ t, step s = .next t ∧ t.status ≠ .fault ∧ t.fcause = s.fcause)

/-- 60_exceptions.md R262: a step that ends in FAULT has written the fault record and STATUS and nothing else. -/
def Obligations.FaultsArePrecise : Prop :=
  ∀ s t : State, s.status = .busy → s.inbox = [] → step s = .next t → t.status = .fault →
    t = faulted t.fcause s ∧ t.fcause ≠ .none

/-- 60_exceptions.md R263: FAULT is left only by an accepted DELIVER or by RESET, and until then the record stays. -/
def Obligations.FaultIsSticky : Prop :=
  ∀ s t : State, s.status = .fault → step s = .next t →
    (t.status = .fault ∧ t.fcause = s.fcause ∧ t.fdpc = s.fdpc ∧ t.fcur = s.fcur) ∨
    (∃ F rest, s.inbox = .deliver F :: rest ∧ t.status = (if F.length = 64 then .busy else .rejected) ∧
      t.fcause = .none ∧ t.fdpc = 0 ∧ t.fcur = 0) ∨
    ∃ rest, s.inbox = .reset :: rest ∧ t.status = .idle ∧ t.fcause = .none ∧ t.fdpc = 0 ∧ t.fcur = 0

/-! ## The step -/

/-- 43_control.md R202: when the host has nothing to do and a frame is being decoded, a step fetches the descriptor at
DPC, decodes it and executes it. -/
def Obligations.StepRunsTheDecodedInstruction : Prop :=
  ∀ (s : State) (i : Instr), s.status = .busy → s.inbox = [] →
    decode (s.params.layoutRom[s.dpc.toNat]'s.dpc.isLt) = .ok i → step s = exec i s

/-- 43_control.md R201: outside BUSY the sequencer changes no state (the model stays put, log 5); in BUSY a step always
changes the state. -/
def Obligations.SequencerStepsExactlyWhenBusy : Prop :=
  ∀ s : State, s.inbox = [] →
    (s.status ≠ .busy → step s = .next s) ∧ (s.status = .busy → ∃ t, step s = .next t ∧ t ≠ s)

/-- No step of the model stops. In BUSY every descriptor word and every ROM content has a defined outcome (60_exceptions.md
part 2, 43_control.md R202). Outside BUSY with no host event the spec gives no step (R201), and that step answers the same
state is the model's choice there (log 5). That the host's events are steps is log 6. -/
def Obligations.EveryStepHasANextState : Prop :=
  ∀ s : State, ∃ t, step s = .next t

/-- 10_state.md R26: the transitions of STATUS are those listed there and no others. -/
def Obligations.StatusTransitions : Prop :=
  ∀ s t : State, step s = .next t →
    t.status = s.status ∨
    (s.status = .busy ∧ t.status = .done ∧ decode (fetch s) = .ok .endRun) ∨
    (s.status = .busy ∧ t.status = .fault ∧ t.fcause ≠ .none) ∨
    (s.status ≠ .busy ∧ ∃ F rest, s.inbox = .deliver F :: rest ∧
      t.status = (if F.length = 64 then .busy else .rejected)) ∨
    (t.status = .idle ∧ ∃ rest, s.inbox = .reset :: rest)

/-- 20_memory.md R61 and 40_slice.md R130: without a DELIVER or a RESET no step writes the report buffer, moves the cursor
back, or moves DPC by anything but one descriptor. -/
def Obligations.BufferAndCursorUnderTheSequencer : Prop :=
  ∀ s t : State, (∀ F rest, s.inbox = .deliver F :: rest → s.status = .busy) → (∀ rest, s.inbox ≠ .reset :: rest) →
    step s = .next t →
    (∀ a, t.rb.read a = s.rb.read a) ∧ s.cur.toNat ≤ t.cur.toNat ∧
      (t.dpc.toNat = s.dpc.toNat ∨ t.dpc.toNat = s.dpc.toNat + 1)

/-- 20_memory.md R75: no operation of the sequencer or the host stores to the ROM; nothing writes NAN_BITS either. -/
def Obligations.ParametersAreNeverWritten : Prop :=
  ∀ s t : State, step s = .next t → t.params = s.params

/-- The invariant of the machine holds after reset (70_reset_and_hazards.md R280, 10_state.md R40). Its clause
`bufferCanonical` is about the model's own representation of RB (log 3). -/
def Obligations.InvariantHoldsAtReset : Prop :=
  Inv State.reset

/-- Every step from a state that meets the invariant, reached by a run or not, ends in a state that meets it: the cursor's
range (R24), STATUS, LEN and the fault record in step with each other (R26 to R28, R200, R221, R262, R280), ROM_OVERRUN at
index 31 only (R259), and the written flags with their sources (R36, R37, R257). The clause `bufferCanonical` is about the
model's own representation of RB (log 3; log 10 for RB after RESET), and that an idle step counts as a step is log 5. -/
def Obligations.StepKeepsTheInvariant : Prop :=
  ∀ s t : State, Inv s → step s = .next t → Inv t

/-! ## The host -/

/-- 70_reset_and_hazards.md R280: what RESET leaves in the status registers and flags, whatever the instance was doing;
the ROM is not affected. -/
def Obligations.ResetLeavesTheStatedValues : Prop :=
  ∀ (s : State) (rest : List HostEvent), s.inbox = .reset :: rest →
    ∃ t, step s = .next t ∧ t.status = .idle ∧ t.len = 0 ∧ t.cur = 0 ∧ t.dpc = 0 ∧ t.fcause = .none ∧ t.fdpc = 0 ∧
      t.fcur = 0 ∧ t.written.word = 0 ∧ t.params = s.params ∧ t.frReady = true ∧ t.rpValid = false

/-- 44_host.md R221, 43_control.md R200: an accepted DELIVER. -/
def Obligations.DeliverEffect : Prop :=
  ∀ (s : State) (F : List Byte) (rest : List HostEvent), s.status ≠ .busy → s.inbox = .deliver F :: rest →
    ∃ t, step s = .next t ∧ t.len.toNat = min F.length 65535 ∧ t.written.word = 0 ∧ t.fcause = .none ∧ t.fdpc = 0 ∧
      t.fcur = 0 ∧ t.cur = 0 ∧ t.dpc = 0 ∧
      (F.length = 64 → t.status = .busy ∧ ∀ i, ∀ h : i < F.length, t.rb.read i = F[i]) ∧
      (F.length ≠ 64 → t.status = .rejected ∧ ∀ a, t.rb.read a = s.rb.read a) ∧
      SameFields s t (fun _ => False) (fun _ => False) (fun _ => False) (fun _ _ => False) ∧
      SameResults s t (fun _ => False) (fun _ _ => False) ∧ t.inbox = rest

/-- 44_host.md R222: a DELIVER presented while BUSY does not happen: the sequencer takes its step as without it, and the
frame stays with the transport. -/
def Obligations.DeliverWaitsWhileBusy : Prop :=
  ∀ (s : State) (F : List Byte) (rest : List HostEvent), s.status = .busy → s.inbox = .deliver F :: rest →
    ∀ t, step { s with inbox := [] } = .next t → step s = .next { t with inbox := s.inbox }

/-- 44_host.md R225 (the block is unchanged by a READ): only the host's own record and the count of drawn values move. -/
def Obligations.ReadChangesNothing : Prop :=
  ∀ (s : State) (n : Byte) (rest : List HostEvent), s.inbox = .read n :: rest →
    ∃ t, step s = .next t ∧ t.answers = s.answers ++ [⟨n, s.rdData n⟩] ∧
      t = { s with inbox := rest, answers := t.answers, draws := t.draws }

/-- 10_state.md R40, 44_host.md R225: the status registers, defined at all times, at their numbers, zero-extended. -/
def Obligations.StatusRegistersRead : Prop :=
  ∀ s : State,
    (s.rdData 0x00).toNat =
      (match s.status with | .idle => 0 | .busy => 1 | .done => 2 | .rejected => 3 | .fault => 4) ∧
    (s.rdData 0x01).toNat = s.len.toNat ∧
    (s.rdData 0x02).toNat =
      (match s.fcause with
        | .none => 0 | .illegalDescriptor => 1 | .unwrittenSource => 2 | .cursorOverrun => 3 | .romOverrun => 4) ∧
    (s.rdData 0x03).toNat = s.fdpc.toNat ∧ (s.rdData 0x04).toNat = s.fcur.toNat ∧
    (s.rdData 0x05).toNat = s.cur.toNat ∧ (s.rdData 0x06).toNat = s.dpc.toNat ∧
    (s.rdData 0x07).toNat = s.written.word.toNat

/-- 10_state.md R40, 44_host.md R225: the byte registers at their numbers, outside BUSY and where they hold a value, byte
`k` at bits `8k+7 : 8k`. Of an AXB register its first AXN bytes and AXN at bits 33:32. -/
def Obligations.ByteRegistersRead : Prop :=
  ∀ s : State, s.status ≠ .busy →
    (s.written.sigW = true → BytesOnPort (s.rdData 0x10) s.sig.toList) ∧
    (s.written.tempW = true → BytesOnPort (s.rdData 0x11) s.temp.toList) ∧
    (s.written.tsW = true → BytesOnPort (s.rdData 0x12) s.ts.toList) ∧
    ∀ g : Group,
      (s.written.mulbW.get g = true →
        BytesOnPort (s.rdData (BitVec.ofNat 8 (0x20 + 8 * g.num.toNat))) (s.mulb.get g).toList) ∧
      (s.written.divbW.get g = true →
        BytesOnPort (s.rdData (BitVec.ofNat 8 (0x21 + 8 * g.num.toNat))) (s.divb.get g).toList) ∧
      ∀ a : Axis, s.written.axbW.at2 g a = true →
        let v := s.rdData (BitVec.ofNat 8 (0x22 + 8 * g.num.toNat + a.num.toNat))
        (∀ k, ∀ h : k < (s.axb.at2 g a).bytes.length, v.extractLsb' (8 * k) 8 = (s.axb.at2 g a).bytes[k]) ∧
          (v.extractLsb' 32 2).toNat = (s.axb.at2 g a).axn

/-- 10_state.md R40, 44_host.md R225: M, D and RAW sign-extended and VEC's 64 bits at their numbers, outside BUSY and where
they hold a value. -/
def Obligations.NumberRegistersRead : Prop :=
  ∀ (s : State) (g : Group), s.status ≠ .busy →
    (s.written.scaleW.get g = true →
      (s.rdData (BitVec.ofNat 8 (0x40 + 8 * g.num.toNat))).toInt = (s.m.get g).toInt ∧
      (s.rdData (BitVec.ofNat 8 (0x41 + 8 * g.num.toNat))).toInt = (s.d.get g).toInt) ∧
    ∀ a : Axis, s.written.vecW.at2 g a = true →
      (s.rdData (BitVec.ofNat 8 (0x42 + 8 * g.num.toNat + a.num.toNat))).toInt = (s.raw.at2 g a).toInt ∧
      s.rdData (BitVec.ofNat 8 (0x45 + 8 * g.num.toNat + a.num.toNat)) = s.vec.at2 g a

/-- 10_state.md R40: a READ of an unmapped number returns 0, in every state. -/
def Obligations.UnmappedNumbersReadZero : Prop :=
  ∀ (s : State) (n : Byte),
    (0x07 < n.toNat ∧ n.toNat < 0x10) ∨ (0x12 < n.toNat ∧ n.toNat < 0x20) ∨
      (0x20 ≤ n.toNat ∧ n.toNat < 0x38 ∧ 5 ≤ n.toNat % 8) ∨ (0x38 ≤ n.toNat ∧ n.toNat < 0x40) ∨ 0x58 ≤ n.toNat →
    s.rdData n = 0

/-- 10_state.md R36: the bit of each flag in WFLAGS; bits 30 and 31 read 0. -/
def Obligations.FlagBitsOfWflags : Prop :=
  ∀ f : WFlags,
    f.word.getLsbD 0 = f.sigW ∧ f.word.getLsbD 1 = f.tempW ∧ f.word.getLsbD 2 = f.tsW ∧
    (∀ g : Group, f.word.getLsbD (3 + g.num.toNat) = f.mulbW.get g ∧
      f.word.getLsbD (6 + g.num.toNat) = f.divbW.get g ∧ f.word.getLsbD (18 + g.num.toNat) = f.scaleW.get g ∧
      ∀ a : Axis, f.word.getLsbD (9 + 3 * g.num.toNat + a.num.toNat) = f.axbW.at2 g a ∧
        f.word.getLsbD (21 + 3 * g.num.toNat + a.num.toNat) = f.vecW.at2 g a) ∧
    f.word.getLsbD 30 = false ∧ f.word.getLsbD 31 = false

/-- The model's form of 44_host.md R226 (log 7): a READ of a data register while BUSY, or with its written flag 0, delivers
a drawn value, and the next such READ draws another; nothing is known of drawn values. -/
def Obligations.UndefinedReadsAreDrawn : Prop :=
  ∀ (s : State) (n : Byte) (r : RegName) (rest : List HostEvent), s.inbox = .read n :: rest → regOfNumber n = some r →
    0x10 ≤ n.toNat → (s.status = .busy ∨ s.written.ofReg r = false) →
    ∃ t, step s = .next t ∧ t.answers = s.answers ++ [⟨n, Config.freeRead s.draws⟩] ∧ t.draws = s.draws + 1

/-- 44_host.md R224: in DONE the registers hold the Decoded Report unchanged until the next DELIVER or RESET. -/
def Obligations.DoneHoldsTheReport : Prop :=
  ∀ s t : State, s.status = .done → (∀ F rest, s.inbox ≠ .deliver F :: rest) → (∀ rest, s.inbox ≠ .reset :: rest) →
    step s = .next t → t.rpValid = true ∧ t.report = s.report ∧ t.written = s.written

/-- 44_host.md R232: HEX of a byte list: two lowercase digits a byte, most significant first, single spaces between. -/
def Obligations.HexText : Prop :=
  ∀ L : List Byte, L ≠ [] →
    (hexText L).length = 3 * L.length - 1 ∧
    (∀ k, ∀ h : k < L.length,
      (hexText L)[3 * k]? = "0123456789abcdef".toList[L[k].toNat / 16]? ∧
      (hexText L)[3 * k + 1]? = "0123456789abcdef".toList[L[k].toNat % 16]?) ∧
    ∀ k, k + 1 < L.length → (hexText L)[3 * k + 2]? = some ' '

/-- 60_exceptions.md R268: moves of different instances commute, and a move of one leaves every other as it is. -/
def Obligations.InstancesAreIndependent : Prop :=
  ∀ (sys : System) (k j : Nat), k ≠ j →
    (sys.move k).move j = (sys.move j).move k ∧ (sys.move k).decoders[j]? = sys.decoders[j]?

/-! ## The scaler -/

/-- 42_scale.md R172: fp is exact below 2^53 in magnitude, and fp(0) is +0. -/
def Obligations.ConversionIsExact : Prop :=
  fp 0 = 0 ∧ ∀ i : Int, i.natAbs < 2 ^ 53 → fpValue (fp i) = some (i : ℚ)

/-- 42_scale.md R176, R172: the product of the register contents is exact, and its sign is the exclusive OR of the operand
signs, also when it is zero. -/
def Obligations.ProductIsExact : Prop :=
  ∀ (nanBits : Word64) (raw : BitVec 24) (m : BitVec 16),
    fpValue (fmul nanBits (fp raw.toInt) (fp m.toInt)) = some ((raw.toInt * m.toInt : Int) : ℚ) ∧
    fpSign (fmul nanBits (fp raw.toInt) (fp m.toInt)) = (decide (raw.toInt < 0) ^^ decide (m.toInt < 0))

/-- 42_scale.md R174: for d ≠ 0 and raw × m ≠ 0 the result is the binary64 value nearest to (raw × m) / d (every other
finite binary64 value is strictly farther, so ties to even never decides: R183), its sign is
negative exactly when an odd number of the three are, and it is the integer quotient when d divides raw × m. -/
def Obligations.QuotientIsNearest : Prop :=
  ∀ (nanBits : Word64) (raw : BitVec 24) (m : BitVec 16) (d : BitVec 32),
    d.toInt ≠ 0 → raw.toInt * m.toInt ≠ 0 →
    ∃ q : ℚ, fpValue (scale nanBits raw.toInt m.toInt d.toInt) = some q ∧
      (∀ (w : Word64) (q' : ℚ), fpValue w = some q' → q' ≠ q →
        |q - (raw.toInt * m.toInt : ℚ) / (d.toInt : ℚ)| < |q' - (raw.toInt * m.toInt : ℚ) / (d.toInt : ℚ)|) ∧
      fpSign (scale nanBits raw.toInt m.toInt d.toInt) =
        ((decide (raw.toInt < 0) ^^ decide (m.toInt < 0)) ^^ decide (d.toInt < 0)) ∧
      (d.toInt ∣ raw.toInt * m.toInt → q = (raw.toInt * m.toInt : ℚ) / (d.toInt : ℚ))

/-- 42_scale.md R177: with d ≠ 0 a non-zero quotient is a normal number between 2^-31 and 2^38 in magnitude. -/
def Obligations.QuotientIsNormal : Prop :=
  ∀ (nanBits : Word64) (raw : BitVec 24) (m : BitVec 16) (d : BitVec 32),
    d.toInt ≠ 0 → raw.toInt * m.toInt ≠ 0 →
    1 ≤ fpExponent (scale nanBits raw.toInt m.toInt d.toInt) ∧
    fpExponent (scale nanBits raw.toInt m.toInt d.toInt) ≤ 2046 ∧
    ∃ q : ℚ, fpValue (scale nanBits raw.toInt m.toInt d.toInt) = some q ∧ 1 / 2 ^ 31 ≤ |q| ∧ |q| ≤ 2 ^ 38

/-- 42_scale.md R175: the sign of a zero result. -/
def Obligations.ZeroNumerator : Prop :=
  ∀ (nanBits : Word64) (raw : BitVec 24) (m : BitVec 16) (d : BitVec 32),
    d.toInt ≠ 0 → raw.toInt * m.toInt = 0 →
    scale nanBits raw.toInt m.toInt d.toInt =
      (if (decide (raw.toInt < 0 ∨ m.toInt < 0)) ^^ decide (d.toInt < 0) then 0x8000000000000000 else 0)

/-- 42_scale.md R178, R179: a zero divisor gives infinity with the sign of raw × m, or NAN_BITS when raw × m is zero. -/
def Obligations.ZeroDivisor : Prop :=
  ∀ (nanBits : Word64) (raw : BitVec 24) (m : BitVec 16),
    (raw.toInt * m.toInt > 0 → scale nanBits raw.toInt m.toInt 0 = 0x7FF0000000000000) ∧
    (raw.toInt * m.toInt < 0 → scale nanBits raw.toInt m.toInt 0 = 0xFFF0000000000000) ∧
    (raw.toInt * m.toInt = 0 → scale nanBits raw.toInt m.toInt 0 = nanBits)

/-! ## Whole runs -/

/-- 43_control.md R212, 30_encoding.md R105: with the canonical ROM, DELIVER of a frame and the run after it agree with
DecodeReport in every register; a 64-byte frame ends DONE after 31 steps, any other is REJECTED. The raw bytes the Decoded Report
shows as HEX text (10_state.md R39) are the 18 fields of the wire layout (20_memory.md R67), in that order. The inbox is
empty, so every step is the sequencer's (log 6). -/
def Obligations.MachineAgreesWithDecodeReport : Prop :=
  ∀ (s : State) (F : List Byte), s.params.layoutRom = Config.canonicalRom → s.status ≠ .busy → s.inbox = [] →
    (decodeReport s.params.nanBits F = none → (s.deliver F).status = .rejected) ∧
    ∀ r, decodeReport s.params.nanBits F = some r →
      ∃ t, runFor 31 (s.deliver F) = .next t ∧ t.status = .done ∧ t.report = r ∧ t.fcause = .none ∧ t.cur = 54 ∧
        t.dpc = 30 ∧ t.written.word = 0x3FFFFFFF ∧
        t.decodedReport.rawHex = wireLayout.map fun field => hexText ((F.drop field.1).take field.2)

/-- 43_control.md R207: whatever the ROM holds, from BUSY with DPC = 0 the sequencer has executed END or faulted after at
most 32 steps. A run that ended earlier fills up the 32 with steps that stay put (log 5). -/
def Obligations.EveryRunEnds : Prop :=
  ∀ s : State, s.status = .busy → s.dpc = 0 → s.inbox = [] →
    ∃ t, runFor 32 s = .next t ∧ (t.status = .done ∨ t.status = .fault)

/-- 60_exceptions.md R264: with the canonical ROM no sequencer fault is reachable from reset, whatever the host delivers,
reads and resets and whenever it does. The host is the model's list of events (log 6), and the values after reset that
the spec leaves open are the model's (logs 2 and 3). -/
def Obligations.CanonicalRomNeverFaults : Prop :=
  ∀ (inbox : List HostEvent) (nanBits : Word64) (n : Nat) (t : State),
    runFor n { State.reset with inbox := inbox, params := ⟨Config.canonicalRom, nanBits⟩ } = .next t →
    t.status ≠ .fault ∧ t.fcause = .none

/-- 43_control.md R213, 10_state.md R21: what the host can see of a run depends on the frame and the parameters alone, not
on the state before the DELIVER. Steps after the end of the run stay put and are counted (log 5). -/
def Obligations.ResultDependsOnTheFrameAlone : Prop :=
  ∀ (s₁ s₂ t₁ t₂ : State) (F : List Byte) (n : Nat), s₁.params = s₂.params → s₁.status ≠ .busy → s₂.status ≠ .busy →
    s₁.inbox = [] → s₂.inbox = [] → runFor n (s₁.deliver F) = .next t₁ → runFor n (s₂.deliver F) = .next t₂ →
    SameVisible t₁ t₂

/-- 20_memory.md R68: the result of the canonical program does not depend on bytes 54 to 63. -/
def Obligations.TrailingBytesAreUnused : Prop :=
  ∀ (s t t' : State) (F F' : List Byte), s.params.layoutRom = Config.canonicalRom → s.status ≠ .busy → s.inbox = [] →
    F.length = 64 → F'.length = 64 → F.take 54 = F'.take 54 →
    runFor 31 (s.deliver F) = .next t → runFor 31 (s.deliver F') = .next t' → SameVisible t t'

/-- 70_reset_and_hazards.md R287: the constraints on a ROM's program are the right ones: with the program in the ROM, a
64-byte frame is decoded to DONE exactly when the program respects them. A run that ended earlier fills up the 32 steps
with steps that stay put (log 5). -/
def Obligations.ProgramCheckIsExact : Prop :=
  ∀ (program : List Instr) (s : State) (F : List Byte), s.params.layoutRom = romOf program → s.status ≠ .busy →
    s.inbox = [] → F.length = 64 →
    ((∃ t, runFor 32 (s.deliver F) = .next t ∧ t.status = .done) ↔ wellFormedProgram program = true)

/-- 30_encoding.md R105, 60_exceptions.md R264: with the canonical ROM every step, from every state that has got where the
program says, reached by a run or not, ends in such a state: in BUSY with DPC = k, CUR and WFLAGS are what the first k
descriptors leave, and no fault is recorded. That an idle step counts as a step is log 5, the host's events are log 6. -/
def Obligations.StepKeepsTheCanonicalProgress : Prop :=
  ∀ s t : State, CanonicalProgress s → step s = .next t → CanonicalProgress t
end

