-- ==== Sys2Proof/Laws/Containers.lean ====
section
/-! SUPPORT. Read-after-write laws of the containers indexed by group and axis, and the elements of a reversed byte
list. -/

namespace Sys2Proof

@[simp] theorem PerGroup.get_all {α : Type} (v : α) (g : Group) : (PerGroup.all v).get g = v := by
  cases g <;> rfl

@[simp] theorem PerAxis.get_all {α : Type} (v : α) (a : Axis) : (PerAxis.all v).get a = v := by
  cases a <;> rfl

@[simp] theorem PerGroup.get_set_same {α : Type} (p : PerGroup α) (g : Group) (v : α) : (p.set g v).get g = v := by
  cases g <;> rfl

theorem PerGroup.get_set {α : Type} (p : PerGroup α) (g h : Group) (v : α) :
    (p.set g v).get h = if h = g then v else p.get h := by
  cases g <;> cases h <;> rfl

theorem PerGroup.get_set_other {α : Type} (p : PerGroup α) (g h : Group) (v : α) (hne : h ≠ g) :
    (p.set g v).get h = p.get h := by
  simp [PerGroup.get_set, hne]

@[simp] theorem PerAxis.get_set_same {α : Type} (p : PerAxis α) (a : Axis) (v : α) : (p.set a v).get a = v := by
  cases a <;> rfl

theorem PerAxis.get_set {α : Type} (p : PerAxis α) (a b : Axis) (v : α) :
    (p.set a v).get b = if b = a then v else p.get b := by
  cases a <;> cases b <;> rfl

@[simp] theorem PerGroup.at2_set2_same {α : Type} (p : PerGroup (PerAxis α)) (g : Group) (a : Axis) (v : α) :
    (p.set2 g a v).at2 g a = v := by
  simp [PerGroup.at2, PerGroup.set2]

theorem PerGroup.at2_set2 {α : Type} (p : PerGroup (PerAxis α)) (g h : Group) (a b : Axis) (v : α) :
    (p.set2 g a v).at2 h b = if h = g ∧ b = a then v else p.at2 h b := by
  cases g <;> cases h <;> cases a <;> cases b <;> rfl

theorem PerGroup.ext_get {α : Type} {p q : PerGroup α} (h : ∀ g, p.get g = q.get g) : p = q := by
  cases p; cases q
  have h1 := h .ang; have h2 := h .acc; have h3 := h .mag
  simp only [PerGroup.get] at h1 h2 h3
  simp [h1, h2, h3]

theorem PerAxis.ext_get {α : Type} {p q : PerAxis α} (h : ∀ a, p.get a = q.get a) : p = q := by
  cases p; cases q
  have h1 := h .x; have h2 := h .y; have h3 := h .z
  simp only [PerAxis.get] at h1 h2 h3
  simp [h1, h2, h3]

@[simp] theorem Bytes.getElem_rev {n : Nat} (L : Bytes n) (i : Nat) (h : i < n) :
    L.rev[i] = L[n - 1 - i] := by
  simp [Bytes.rev]

theorem Bytes.rev_rev {n : Nat} (L : Bytes n) : L.rev.rev = L := by
  apply Vector.ext
  intro i h
  have hi : n - 1 - (n - 1 - i) = i := by omega
  simp [hi]

end Sys2Proof
end

