-- ==== Sys2Proof/Laws/Flags.lean ====
section
/-! SUPPORT. What setting one written flag does to the word `WFLAGS` (10_state.md R36): its bit is ORed in, every other
bit stays. -/

namespace Sys2Proof.Machine

/-- Setting a flag ORs its bit in, whatever the flag was. -/
theorem flagBit_true (position : Nat) (flag : Bool) :
    flagBit position true = flagBit position flag ||| BitVec.ofNat 32 (2 ^ position) := by
  cases flag <;> simp [flagBit]

/-- `WFLAGS` after SLO sets the flag of its field. -/
theorem WFlags.word_setOpaque (f : WFlags) (o : OpaqueField) :
    (f.setOpaque o).word = f.word ||| BitVec.ofNat 32 (2 ^ o.num.toNat) := by
  cases o
  · simp only [word, setOpaque, flagBit_true _ f.sigW]; ac_rfl
  · simp only [word, setOpaque, flagBit_true _ f.tempW]; ac_rfl
  · simp only [word, setOpaque, flagBit_true _ f.tsW]; ac_rfl

theorem groupBits_set (first : Nat) (p : PerGroup Bool) (g : Group) :
    groupBits first (p.set g true) = groupBits first p ||| BitVec.ofNat 32 (2 ^ (first + g.num.toNat)) := by
  cases g
  · simp only [groupBits, PerGroup.set, flagBit_true _ p.ang]; ac_rfl
  · simp only [groupBits, PerGroup.set, flagBit_true _ p.acc]; ac_rfl
  · simp only [groupBits, PerGroup.set, flagBit_true _ p.mag]; ac_rfl

theorem axisBits_set (first : Nat) (p : PerAxis Bool) (a : Axis) :
    axisBits first (p.set a true) = axisBits first p ||| BitVec.ofNat 32 (2 ^ (first + a.num.toNat)) := by
  cases a
  · simp only [axisBits, PerAxis.set, flagBit_true _ p.x]; ac_rfl
  · simp only [axisBits, PerAxis.set, flagBit_true _ p.y]; ac_rfl
  · simp only [axisBits, PerAxis.set, flagBit_true _ p.z]; ac_rfl

theorem groupAxisBits_set (first : Nat) (p : PerGroup (PerAxis Bool)) (g : Group) (a : Axis) :
    groupAxisBits first (p.set2 g a true) =
      groupAxisBits first p ||| BitVec.ofNat 32 (2 ^ (first + 3 * g.num.toNat + a.num.toNat)) := by
  cases g
  · simp only [groupAxisBits, PerGroup.set2, PerGroup.set, PerGroup.get, axisBits_set]; ac_rfl
  · simp only [groupAxisBits, PerGroup.set2, PerGroup.set, PerGroup.get, axisBits_set]; ac_rfl
  · simp only [groupAxisBits, PerGroup.set2, PerGroup.set, PerGroup.get, axisBits_set]; ac_rfl

/-- `WFLAGS` after SLM. -/
theorem WFlags.word_setMulb (f : WFlags) (g : Group) :
    (f.setMulb g).word = f.word ||| BitVec.ofNat 32 (2 ^ (3 + g.num.toNat)) := by
  simp only [word, setMulb, groupBits_set _ f.mulbW g]
  generalize BitVec.ofNat 32 _ = bit
  ac_rfl

/-- `WFLAGS` after SLD. -/
theorem WFlags.word_setDivb (f : WFlags) (g : Group) :
    (f.setDivb g).word = f.word ||| BitVec.ofNat 32 (2 ^ (6 + g.num.toNat)) := by
  simp only [word, setDivb, groupBits_set _ f.divbW g]
  generalize BitVec.ofNat 32 _ = bit
  ac_rfl

/-- `WFLAGS` after SLA. -/
theorem WFlags.word_setAxb (f : WFlags) (g : Group) (a : Axis) :
    (f.setAxb g a).word = f.word ||| BitVec.ofNat 32 (2 ^ (9 + 3 * g.num.toNat + a.num.toNat)) := by
  simp only [word, setAxb, groupAxisBits_set _ f.axbW g a]
  generalize BitVec.ofNat 32 _ = bit
  ac_rfl

/-- `WFLAGS` after LDS. -/
theorem WFlags.word_setScale (f : WFlags) (g : Group) :
    (f.setScale g).word = f.word ||| BitVec.ofNat 32 (2 ^ (18 + g.num.toNat)) := by
  simp only [word, setScale, groupBits_set _ f.scaleW g]
  generalize BitVec.ofNat 32 _ = bit
  ac_rfl

/-- `WFLAGS` after CNV. -/
theorem WFlags.word_setVec (f : WFlags) (g : Group) (a : Axis) :
    (f.setVec g a).word = f.word ||| BitVec.ofNat 32 (2 ^ (21 + 3 * g.num.toNat + a.num.toNat)) := by
  simp only [word, setVec, groupAxisBits_set _ f.vecW g a]
  generalize BitVec.ofNat 32 _ = bit
  ac_rfl

end Sys2Proof.Machine
end

