-- ==== Sys2Proof/Laws/Memory.lean ====
section
/-! SUPPORT. The laws of the report buffer: read after write, every other address unchanged, and the canonical form kept
by every operation that writes it (10_state.md R22, 20_memory.md R60, R61). -/

namespace Sys2Proof.Machine

theorem readCells_below {low : Nat} {cells : List Host.Cell} {a : Nat} (h : wfCells low cells = true) (ha : a < low) :
    readCells cells a = Memory.unlisted := by
  induction cells generalizing low with
  | nil => rfl
  | cons c rest ih =>
    obtain ⟨k, v⟩ := c
    simp only [wfCells, Bool.and_eq_true, decide_eq_true_eq] at h
    have hk : k ≠ a := by omega
    simp only [readCells, hk, if_false]
    exact ih h.2 (by omega)

theorem wfCells_weaken {low low' : Nat} {cells : List Host.Cell} (h : wfCells low cells = true) (hl : low' ≤ low) :
    wfCells low' cells = true := by
  cases cells with
  | nil => rfl
  | cons c rest =>
    obtain ⟨k, v⟩ := c
    simp only [wfCells, Bool.and_eq_true, decide_eq_true_eq] at h ⊢
    exact ⟨⟨⟨by omega, h.1.1.2⟩, h.1.2⟩, h.2⟩

theorem readCells_writeCells {low : Nat} {cells : List Host.Cell} (h : wfCells low cells = true) (a : Nat) (b : Byte)
    (c : Nat) : readCells (writeCells cells a b) c = if c = a then b else readCells cells c := by
  induction cells generalizing low with
  | nil =>
    by_cases hb : b = Memory.unlisted
    · simp [writeCells, readCells, hb]
    · by_cases hc : c = a
      · simp [writeCells, readCells, hb, hc]
      · have : a ≠ c := fun e => hc e.symm
        simp [writeCells, readCells, hb, hc, this]
  | cons cell rest ih =>
    obtain ⟨k, v⟩ := cell
    simp only [wfCells, Bool.and_eq_true, decide_eq_true_eq] at h
    have hrest := h.2
    simp only [writeCells]
    by_cases h1 : a < k
    · have hbelow : readCells ((k, v) :: rest) a = Memory.unlisted := by
        have hk : k ≠ a := by omega
        simp only [readCells, hk, if_false]
        exact readCells_below hrest (by omega)
      by_cases hb : b = Memory.unlisted
      · by_cases hc : c = a
        · simp [h1, hb, hc, hbelow]
        · simp [h1, hb, hc]
      · by_cases hc : c = a
        · simp [h1, hb, hc, readCells]
        · have : a ≠ c := fun e => hc e.symm
          simp [h1, hb, hc, readCells, this]
    · by_cases h2 : a = k
      · subst h2
        by_cases hb : b = Memory.unlisted
        · by_cases hc : c = a
          · simp [hb, hc, readCells_below hrest (Nat.lt_succ_self a)]
          · have : a ≠ c := fun e => hc e.symm
            simp [hb, hc, readCells, this]
        · by_cases hc : c = a
          · simp [hb, hc, readCells]
          · have : a ≠ c := fun e => hc e.symm
            simp [hb, hc, readCells, this]
      · simp only [h1, h2, if_false, readCells]
        by_cases hk : k = c
        · have : c ≠ a := by omega
          simp [hk, this]
        · simp only [hk, if_false]
          exact ih hrest

theorem wfCells_writeCells {low : Nat} {cells : List Host.Cell} (h : wfCells low cells = true) {a : Nat} (b : Byte)
    (hlow : low ≤ a) (ha : a < Config.reportLen) : wfCells low (writeCells cells a b) = true := by
  induction cells generalizing low with
  | nil =>
    by_cases hb : b = Memory.unlisted
    · simp [writeCells, wfCells, hb]
    · simp [writeCells, wfCells, hb, hlow, ha]
  | cons cell rest ih =>
    obtain ⟨k, v⟩ := cell
    have hw := h
    simp only [wfCells, Bool.and_eq_true, decide_eq_true_eq] at h
    simp only [writeCells]
    by_cases h1 : a < k
    · by_cases hb : b = Memory.unlisted
      · simpa [h1, hb] using hw
      · simp only [h1, hb, if_true, if_false, wfCells, Bool.and_eq_true, decide_eq_true_eq]
        exact ⟨⟨⟨hlow, ha⟩, by simp [hb]⟩, ⟨⟨by omega, h.1.1.2⟩, h.1.2⟩, h.2⟩
    · by_cases h2 : a = k
      · subst h2
        by_cases hb : b = Memory.unlisted
        · simpa [hb] using wfCells_weaken h.2 (by omega : low ≤ a + 1)
        · simp only [hb, if_true, if_false, lt_irrefl, wfCells, Bool.and_eq_true, decide_eq_true_eq]
          exact ⟨⟨⟨hlow, ha⟩, by simp [hb]⟩, h.2⟩
      · simp only [h1, h2, if_false, wfCells, Bool.and_eq_true, decide_eq_true_eq]
        exact ⟨h.1, ih h.2 (by omega)⟩

/-- Read after write, and every other address as before. -/
theorem Memory.read_write {mem : Memory} (h : mem.wf = true) (a : Nat) (b : Byte) (c : Nat) :
    (mem.write a b).read c = if c = a then b else mem.read c :=
  readCells_writeCells h a b c

theorem Memory.write_wf {mem : Memory} (h : mem.wf = true) {a : Nat} (b : Byte) (ha : a < Config.reportLen) :
    (mem.write a b).wf = true :=
  wfCells_writeCells h b (Nat.zero_le _) ha

theorem Memory.fill_wf {mem : Memory} (h : mem.wf = true) {a : Nat} {F : List Byte}
    (ha : a + F.length ≤ Config.reportLen) : (mem.fill a F).wf = true := by
  induction F generalizing mem a with
  | nil => exact h
  | cons b rest ih =>
    simp only [List.length_cons] at ha
    exact ih (Memory.write_wf h b (by omega)) (by omega)

/-- A fill from `a` on: inside the frame its byte, elsewhere as before. -/
theorem Memory.read_fill {mem : Memory} (h : mem.wf = true) {a : Nat} {F : List Byte}
    (ha : a + F.length ≤ Config.reportLen) (c : Nat) :
    (mem.fill a F).read c = if a ≤ c ∧ c < a + F.length then F.getD (c - a) 0 else mem.read c := by
  induction F generalizing mem a with
  | nil =>
    have : ¬ (a ≤ c ∧ c < a + ([] : List Byte).length) := by simp
    simp [Memory.fill]
  | cons b rest ih =>
    simp only [List.length_cons] at ha
    have hw := Memory.write_wf h b (by omega : a < Config.reportLen)
    rw [Memory.fill, ih hw (by omega), Memory.read_write h]
    by_cases h1 : c = a
    · subst h1
      simp
    · by_cases h2 : a + 1 ≤ c ∧ c < a + 1 + rest.length
      · have h3 : a ≤ c ∧ c < a + (b :: rest).length := by simp only [List.length_cons]; omega
        have h4 : c - a = (c - (a + 1)) + 1 := by omega
        rw [if_pos h2, if_pos h3, h4, List.getD_cons_succ]
      · have h3 : ¬ (a ≤ c ∧ c < a + (b :: rest).length) := by simp only [List.length_cons]; omega
        rw [if_neg h2, if_neg h3, if_neg h1]

@[simp] theorem getElem_memRead (mem : Memory) (addr n i : Nat) (h : i < n) :
    (memRead mem addr n)[i] = mem.read (addr + i) := by
  simp [memRead]

theorem Memory.blank_wf : Memory.blank.wf = true := rfl

theorem reset_buffer_wf : State.reset.rb.wf = true := rfl

end Sys2Proof.Machine
end

