-- ==== Sys2Proof/Laws/State.lean ====
section
/-! SUPPORT. What each update of the state writes and what it leaves alone, field by field. Every theorem is a list of
equations for simp: `_writes` for the fields written, `_keeps` for all others. -/

namespace Sys2Proof.Machine

@[simp] theorem State.enterFault_writes (s : State) (c : Cause) :
    (s.enterFault c).fcause = c ∧ (s.enterFault c).fdpc = s.dpc ∧ (s.enterFault c).fcur = s.cur ∧
    (s.enterFault c).status = .fault :=
  by
  refine ⟨?_, ?_, ?_, ?_⟩ <;> rfl

@[simp] theorem State.enterFault_keeps (s : State) (c : Cause) :
    (s.enterFault c).params = s.params ∧ (s.enterFault c).rb = s.rb ∧ (s.enterFault c).len = s.len ∧
    (s.enterFault c).cur = s.cur ∧ (s.enterFault c).dpc = s.dpc ∧ (s.enterFault c).sig = s.sig ∧
    (s.enterFault c).temp = s.temp ∧ (s.enterFault c).ts = s.ts ∧ (s.enterFault c).mulb = s.mulb ∧
    (s.enterFault c).divb = s.divb ∧ (s.enterFault c).axb = s.axb ∧ (s.enterFault c).m = s.m ∧
    (s.enterFault c).d = s.d ∧ (s.enterFault c).raw = s.raw ∧ (s.enterFault c).vec = s.vec ∧
    (s.enterFault c).written = s.written ∧ (s.enterFault c).inbox = s.inbox ∧
    (s.enterFault c).answers = s.answers ∧ (s.enterFault c).draws = s.draws :=
  by
  refine ⟨?_, ?_, ?_, ?_, ?_, ?_, ?_, ?_, ?_, ?_, ?_, ?_, ?_, ?_, ?_, ?_, ?_, ?_, ?_⟩ <;> rfl

@[simp] theorem State.advance_writes (s : State) :
    (s.advance).dpc = s.dpc + 1 :=
  rfl

@[simp] theorem State.advance_keeps (s : State) :
    (s.advance).params = s.params ∧ (s.advance).rb = s.rb ∧ (s.advance).len = s.len ∧ (s.advance).cur = s.cur ∧
    (s.advance).status = s.status ∧ (s.advance).fcause = s.fcause ∧ (s.advance).fdpc = s.fdpc ∧
    (s.advance).fcur = s.fcur ∧ (s.advance).sig = s.sig ∧ (s.advance).temp = s.temp ∧ (s.advance).ts = s.ts ∧
    (s.advance).mulb = s.mulb ∧ (s.advance).divb = s.divb ∧ (s.advance).axb = s.axb ∧ (s.advance).m = s.m ∧
    (s.advance).d = s.d ∧ (s.advance).raw = s.raw ∧ (s.advance).vec = s.vec ∧ (s.advance).written = s.written ∧
    (s.advance).inbox = s.inbox ∧ (s.advance).answers = s.answers ∧ (s.advance).draws = s.draws :=
  by
  refine ⟨?_, ?_, ?_, ?_, ?_, ?_, ?_, ?_, ?_, ?_, ?_, ?_, ?_, ?_, ?_, ?_, ?_, ?_, ?_, ?_, ?_, ?_⟩ <;> rfl

@[simp] theorem State.moveCursor_writes (s : State) (w : Nat) :
    (s.moveCursor w).cur = s.cur + BitVec.ofNat 7 w :=
  rfl

@[simp] theorem State.moveCursor_keeps (s : State) (w : Nat) :
    (s.moveCursor w).params = s.params ∧ (s.moveCursor w).rb = s.rb ∧ (s.moveCursor w).len = s.len ∧
    (s.moveCursor w).dpc = s.dpc ∧ (s.moveCursor w).status = s.status ∧ (s.moveCursor w).fcause = s.fcause ∧
    (s.moveCursor w).fdpc = s.fdpc ∧ (s.moveCursor w).fcur = s.fcur ∧ (s.moveCursor w).sig = s.sig ∧
    (s.moveCursor w).temp = s.temp ∧ (s.moveCursor w).ts = s.ts ∧ (s.moveCursor w).mulb = s.mulb ∧
    (s.moveCursor w).divb = s.divb ∧ (s.moveCursor w).axb = s.axb ∧ (s.moveCursor w).m = s.m ∧
    (s.moveCursor w).d = s.d ∧ (s.moveCursor w).raw = s.raw ∧ (s.moveCursor w).vec = s.vec ∧
    (s.moveCursor w).written = s.written ∧ (s.moveCursor w).inbox = s.inbox ∧
    (s.moveCursor w).answers = s.answers ∧ (s.moveCursor w).draws = s.draws :=
  by
  refine ⟨?_, ?_, ?_, ?_, ?_, ?_, ?_, ?_, ?_, ?_, ?_, ?_, ?_, ?_, ?_, ?_, ?_, ?_, ?_, ?_, ?_, ?_⟩ <;> rfl

@[simp] theorem State.putMulb_writes (s : State) (g : Group) (L : Bytes 2) :
    (s.putMulb g L).mulb = s.mulb.set g L ∧ (s.putMulb g L).written = s.written.setMulb g :=
  by
  refine ⟨?_, ?_⟩ <;> rfl

@[simp] theorem State.putMulb_keeps (s : State) (g : Group) (L : Bytes 2) :
    (s.putMulb g L).params = s.params ∧ (s.putMulb g L).rb = s.rb ∧ (s.putMulb g L).len = s.len ∧
    (s.putMulb g L).cur = s.cur ∧ (s.putMulb g L).dpc = s.dpc ∧ (s.putMulb g L).status = s.status ∧
    (s.putMulb g L).fcause = s.fcause ∧ (s.putMulb g L).fdpc = s.fdpc ∧ (s.putMulb g L).fcur = s.fcur ∧
    (s.putMulb g L).sig = s.sig ∧ (s.putMulb g L).temp = s.temp ∧ (s.putMulb g L).ts = s.ts ∧
    (s.putMulb g L).divb = s.divb ∧ (s.putMulb g L).axb = s.axb ∧ (s.putMulb g L).m = s.m ∧
    (s.putMulb g L).d = s.d ∧ (s.putMulb g L).raw = s.raw ∧ (s.putMulb g L).vec = s.vec ∧
    (s.putMulb g L).inbox = s.inbox ∧ (s.putMulb g L).answers = s.answers ∧ (s.putMulb g L).draws = s.draws :=
  by
  refine ⟨?_, ?_, ?_, ?_, ?_, ?_, ?_, ?_, ?_, ?_, ?_, ?_, ?_, ?_, ?_, ?_, ?_, ?_, ?_, ?_, ?_⟩ <;> rfl

@[simp] theorem State.putDivb_writes (s : State) (g : Group) (L : Bytes 4) :
    (s.putDivb g L).divb = s.divb.set g L ∧ (s.putDivb g L).written = s.written.setDivb g :=
  by
  refine ⟨?_, ?_⟩ <;> rfl

@[simp] theorem State.putDivb_keeps (s : State) (g : Group) (L : Bytes 4) :
    (s.putDivb g L).params = s.params ∧ (s.putDivb g L).rb = s.rb ∧ (s.putDivb g L).len = s.len ∧
    (s.putDivb g L).cur = s.cur ∧ (s.putDivb g L).dpc = s.dpc ∧ (s.putDivb g L).status = s.status ∧
    (s.putDivb g L).fcause = s.fcause ∧ (s.putDivb g L).fdpc = s.fdpc ∧ (s.putDivb g L).fcur = s.fcur ∧
    (s.putDivb g L).sig = s.sig ∧ (s.putDivb g L).temp = s.temp ∧ (s.putDivb g L).ts = s.ts ∧
    (s.putDivb g L).mulb = s.mulb ∧ (s.putDivb g L).axb = s.axb ∧ (s.putDivb g L).m = s.m ∧
    (s.putDivb g L).d = s.d ∧ (s.putDivb g L).raw = s.raw ∧ (s.putDivb g L).vec = s.vec ∧
    (s.putDivb g L).inbox = s.inbox ∧ (s.putDivb g L).answers = s.answers ∧ (s.putDivb g L).draws = s.draws :=
  by
  refine ⟨?_, ?_, ?_, ?_, ?_, ?_, ?_, ?_, ?_, ?_, ?_, ?_, ?_, ?_, ?_, ?_, ?_, ?_, ?_, ?_, ?_⟩ <;> rfl

@[simp] theorem State.putAxis_writes (s : State) (g : Group) (a : Axis) (field : AxisBytes) :
    (s.putAxis g a field).axb = s.axb.set2 g a field ∧ (s.putAxis g a field).written = s.written.setAxb g a :=
  by
  refine ⟨?_, ?_⟩ <;> rfl

@[simp] theorem State.putAxis_keeps (s : State) (g : Group) (a : Axis) (field : AxisBytes) :
    (s.putAxis g a field).params = s.params ∧ (s.putAxis g a field).rb = s.rb ∧ (s.putAxis g a field).len = s.len ∧
    (s.putAxis g a field).cur = s.cur ∧ (s.putAxis g a field).dpc = s.dpc ∧
    (s.putAxis g a field).status = s.status ∧ (s.putAxis g a field).fcause = s.fcause ∧
    (s.putAxis g a field).fdpc = s.fdpc ∧ (s.putAxis g a field).fcur = s.fcur ∧ (s.putAxis g a field).sig = s.sig ∧
    (s.putAxis g a field).temp = s.temp ∧ (s.putAxis g a field).ts = s.ts ∧ (s.putAxis g a field).mulb = s.mulb ∧
    (s.putAxis g a field).divb = s.divb ∧ (s.putAxis g a field).m = s.m ∧ (s.putAxis g a field).d = s.d ∧
    (s.putAxis g a field).raw = s.raw ∧ (s.putAxis g a field).vec = s.vec ∧ (s.putAxis g a field).inbox = s.inbox ∧
    (s.putAxis g a field).answers = s.answers ∧ (s.putAxis g a field).draws = s.draws :=
  by
  refine ⟨?_, ?_, ?_, ?_, ?_, ?_, ?_, ?_, ?_, ?_, ?_, ?_, ?_, ?_, ?_, ?_, ?_, ?_, ?_, ?_, ?_⟩ <;> rfl

@[simp] theorem State.putScale_writes (s : State) (g : Group) (m d : Int) :
    (s.putScale g m d).m = s.m.set g (.ofInt 16 m) ∧ (s.putScale g m d).d = s.d.set g (.ofInt 32 d) ∧
    (s.putScale g m d).written = s.written.setScale g :=
  by
  refine ⟨?_, ?_, ?_⟩ <;> rfl

@[simp] theorem State.putScale_keeps (s : State) (g : Group) (m d : Int) :
    (s.putScale g m d).params = s.params ∧ (s.putScale g m d).rb = s.rb ∧ (s.putScale g m d).len = s.len ∧
    (s.putScale g m d).cur = s.cur ∧ (s.putScale g m d).dpc = s.dpc ∧ (s.putScale g m d).status = s.status ∧
    (s.putScale g m d).fcause = s.fcause ∧ (s.putScale g m d).fdpc = s.fdpc ∧ (s.putScale g m d).fcur = s.fcur ∧
    (s.putScale g m d).sig = s.sig ∧ (s.putScale g m d).temp = s.temp ∧ (s.putScale g m d).ts = s.ts ∧
    (s.putScale g m d).mulb = s.mulb ∧ (s.putScale g m d).divb = s.divb ∧ (s.putScale g m d).axb = s.axb ∧
    (s.putScale g m d).raw = s.raw ∧ (s.putScale g m d).vec = s.vec ∧ (s.putScale g m d).inbox = s.inbox ∧
    (s.putScale g m d).answers = s.answers ∧ (s.putScale g m d).draws = s.draws :=
  by
  refine ⟨?_, ?_, ?_, ?_, ?_, ?_, ?_, ?_, ?_, ?_, ?_, ?_, ?_, ?_, ?_, ?_, ?_, ?_, ?_, ?_⟩ <;> rfl

@[simp] theorem State.putVec_writes (s : State) (g : Group) (a : Axis) (r : Int) (v : Word64) :
    (s.putVec g a r v).raw = s.raw.set2 g a (.ofInt 24 r) ∧ (s.putVec g a r v).vec = s.vec.set2 g a v ∧
    (s.putVec g a r v).written = s.written.setVec g a :=
  by
  refine ⟨?_, ?_, ?_⟩ <;> rfl

@[simp] theorem State.putVec_keeps (s : State) (g : Group) (a : Axis) (r : Int) (v : Word64) :
    (s.putVec g a r v).params = s.params ∧ (s.putVec g a r v).rb = s.rb ∧ (s.putVec g a r v).len = s.len ∧
    (s.putVec g a r v).cur = s.cur ∧ (s.putVec g a r v).dpc = s.dpc ∧ (s.putVec g a r v).status = s.status ∧
    (s.putVec g a r v).fcause = s.fcause ∧ (s.putVec g a r v).fdpc = s.fdpc ∧ (s.putVec g a r v).fcur = s.fcur ∧
    (s.putVec g a r v).sig = s.sig ∧ (s.putVec g a r v).temp = s.temp ∧ (s.putVec g a r v).ts = s.ts ∧
    (s.putVec g a r v).mulb = s.mulb ∧ (s.putVec g a r v).divb = s.divb ∧ (s.putVec g a r v).axb = s.axb ∧
    (s.putVec g a r v).m = s.m ∧ (s.putVec g a r v).d = s.d ∧ (s.putVec g a r v).inbox = s.inbox ∧
    (s.putVec g a r v).answers = s.answers ∧ (s.putVec g a r v).draws = s.draws :=
  by
  refine ⟨?_, ?_, ?_, ?_, ?_, ?_, ?_, ?_, ?_, ?_, ?_, ?_, ?_, ?_, ?_, ?_, ?_, ?_, ?_, ?_⟩ <;> rfl

@[simp] theorem State.resetBlock_writes (s : State) :
    (s.resetBlock).rb = ⟨[]⟩ ∧ (s.resetBlock).len = 0 ∧ (s.resetBlock).cur = 0 ∧ (s.resetBlock).dpc = 0 ∧
    (s.resetBlock).status = .idle ∧ (s.resetBlock).fcause = .none ∧ (s.resetBlock).fdpc = 0 ∧
    (s.resetBlock).fcur = 0 ∧ (s.resetBlock).written = .clear :=
  by
  refine ⟨?_, ?_, ?_, ?_, ?_, ?_, ?_, ?_, ?_⟩ <;> rfl

@[simp] theorem State.resetBlock_keeps (s : State) :
    (s.resetBlock).params = s.params ∧ (s.resetBlock).inbox = s.inbox ∧ (s.resetBlock).answers = s.answers ∧
    (s.resetBlock).draws = s.draws :=
  by
  refine ⟨?_, ?_, ?_, ?_⟩ <;> rfl

@[simp] theorem State.takeRead_writes (s : State) (n : Byte) :
    (s.takeRead n).answers = s.answers ++ [⟨n, s.rdData n⟩] ∧ (s.takeRead n).draws = s.draws + (s.readPort n).2 :=
  by
  refine ⟨?_, ?_⟩ <;> rfl

@[simp] theorem State.takeRead_keeps (s : State) (n : Byte) :
    (s.takeRead n).params = s.params ∧ (s.takeRead n).rb = s.rb ∧ (s.takeRead n).len = s.len ∧
    (s.takeRead n).cur = s.cur ∧ (s.takeRead n).dpc = s.dpc ∧ (s.takeRead n).status = s.status ∧
    (s.takeRead n).fcause = s.fcause ∧ (s.takeRead n).fdpc = s.fdpc ∧ (s.takeRead n).fcur = s.fcur ∧
    (s.takeRead n).sig = s.sig ∧ (s.takeRead n).temp = s.temp ∧ (s.takeRead n).ts = s.ts ∧
    (s.takeRead n).mulb = s.mulb ∧ (s.takeRead n).divb = s.divb ∧ (s.takeRead n).axb = s.axb ∧
    (s.takeRead n).m = s.m ∧ (s.takeRead n).d = s.d ∧ (s.takeRead n).raw = s.raw ∧ (s.takeRead n).vec = s.vec ∧
    (s.takeRead n).written = s.written ∧ (s.takeRead n).inbox = s.inbox :=
  by
  refine ⟨?_, ?_, ?_, ?_, ?_, ?_, ?_, ?_, ?_, ?_, ?_, ?_, ?_, ?_, ?_, ?_, ?_, ?_, ?_, ?_, ?_⟩ <;> rfl

@[simp] theorem State.putOpaque_keeps (s : State) (f : OpaqueField) (L : Bytes f.width) :
    (s.putOpaque f L).params = s.params ∧ (s.putOpaque f L).rb = s.rb ∧ (s.putOpaque f L).len = s.len ∧
    (s.putOpaque f L).cur = s.cur ∧ (s.putOpaque f L).dpc = s.dpc ∧ (s.putOpaque f L).status = s.status ∧
    (s.putOpaque f L).fcause = s.fcause ∧ (s.putOpaque f L).fdpc = s.fdpc ∧ (s.putOpaque f L).fcur = s.fcur ∧
    (s.putOpaque f L).mulb = s.mulb ∧ (s.putOpaque f L).divb = s.divb ∧ (s.putOpaque f L).axb = s.axb ∧
    (s.putOpaque f L).m = s.m ∧ (s.putOpaque f L).d = s.d ∧ (s.putOpaque f L).raw = s.raw ∧
    (s.putOpaque f L).vec = s.vec ∧ (s.putOpaque f L).inbox = s.inbox ∧ (s.putOpaque f L).answers = s.answers ∧
    (s.putOpaque f L).draws = s.draws := by
  cases f <;> refine ⟨?_, ?_, ?_, ?_, ?_, ?_, ?_, ?_, ?_, ?_, ?_, ?_, ?_, ?_, ?_, ?_, ?_, ?_, ?_⟩ <;> rfl

@[simp] theorem State.putOpaque_written (s : State) (f : OpaqueField) (L : Bytes f.width) :
    (s.putOpaque f L).written = s.written.setOpaque f := by
  cases f <;> rfl

@[simp] theorem State.putOpaque_sig (s : State) (L : Bytes 2) :
    (s.putOpaque .sig L).sig = L ∧ (s.putOpaque .sig L).temp = s.temp ∧ (s.putOpaque .sig L).ts = s.ts :=
  ⟨rfl, rfl, rfl⟩

@[simp] theorem State.putOpaque_temp (s : State) (L : Bytes 2) :
    (s.putOpaque .temp L).temp = L ∧ (s.putOpaque .temp L).sig = s.sig ∧ (s.putOpaque .temp L).ts = s.ts :=
  ⟨rfl, rfl, rfl⟩

@[simp] theorem State.putOpaque_ts (s : State) (L : Bytes 8) :
    (s.putOpaque .ts L).ts = L ∧ (s.putOpaque .ts L).sig = s.sig ∧ (s.putOpaque .ts L).temp = s.temp :=
  ⟨rfl, rfl, rfl⟩

@[simp] theorem State.takeFrame_keeps (s : State) (F : List Byte) :
    (s.takeFrame F).params = s.params ∧ (s.takeFrame F).status = s.status ∧ (s.takeFrame F).sig = s.sig ∧
    (s.takeFrame F).temp = s.temp ∧ (s.takeFrame F).ts = s.ts ∧ (s.takeFrame F).mulb = s.mulb ∧
    (s.takeFrame F).divb = s.divb ∧ (s.takeFrame F).axb = s.axb ∧ (s.takeFrame F).m = s.m ∧
    (s.takeFrame F).d = s.d ∧ (s.takeFrame F).raw = s.raw ∧ (s.takeFrame F).vec = s.vec ∧
    (s.takeFrame F).inbox = s.inbox ∧ (s.takeFrame F).answers = s.answers ∧ (s.takeFrame F).draws = s.draws :=
  by
  refine ⟨?_, ?_, ?_, ?_, ?_, ?_, ?_, ?_, ?_, ?_, ?_, ?_, ?_, ?_, ?_⟩ <;> rfl

@[simp] theorem State.takeFrame_writes (s : State) (F : List Byte) :
    (s.takeFrame F).len = frameLength F ∧ (s.takeFrame F).cur = 0 ∧ (s.takeFrame F).dpc = 0 ∧
    (s.takeFrame F).fcause = .none ∧ (s.takeFrame F).fdpc = 0 ∧ (s.takeFrame F).fcur = 0 ∧
    (s.takeFrame F).written = .clear ∧
    (s.takeFrame F).rb = (if F.length = Config.reportLen then Memory.blank.fill 0 F else s.rb) :=
  by
  refine ⟨?_, ?_, ?_, ?_, ?_, ?_, ?_, ?_⟩ <;> rfl

theorem State.gate_keeps (s : State) :
    s.gate.params = s.params ∧ s.gate.rb = s.rb ∧ s.gate.len = s.len ∧ s.gate.fcause = s.fcause ∧
    s.gate.fdpc = s.fdpc ∧ s.gate.fcur = s.fcur ∧ s.gate.sig = s.sig ∧ s.gate.temp = s.temp ∧ s.gate.ts = s.ts ∧
    s.gate.mulb = s.mulb ∧ s.gate.divb = s.divb ∧ s.gate.axb = s.axb ∧ s.gate.m = s.m ∧ s.gate.d = s.d ∧
    s.gate.raw = s.raw ∧ s.gate.vec = s.vec ∧ s.gate.written = s.written ∧ s.gate.inbox = s.inbox ∧
    s.gate.answers = s.answers ∧ s.gate.draws = s.draws := by
  unfold State.gate
  refine ⟨?_, ?_, ?_, ?_, ?_, ?_, ?_, ?_, ?_, ?_, ?_, ?_, ?_, ?_, ?_, ?_, ?_, ?_, ?_, ?_⟩ <;> split <;> rfl

theorem State.gate_cur (s : State) (h : s.cur = 0) : s.gate.cur = 0 := by
  unfold State.gate
  split
  · exact h
  · rfl

theorem State.gate_dpc (s : State) (h : s.dpc = 0) : s.gate.dpc = 0 := by
  unfold State.gate
  split
  · exact h
  · rfl

theorem State.gate_status (s : State) : s.gate.status = if s.len = 64 then .busy else .rejected := by
  unfold State.gate
  by_cases h : s.len = 64
  · rw [if_neg (not_not.mpr h), if_pos h]
  · rw [if_pos h, if_neg h]

@[simp] theorem State.deliver_keeps (s : State) (F : List Byte) :
    (s.deliver F).params = s.params ∧ (s.deliver F).sig = s.sig ∧ (s.deliver F).temp = s.temp ∧
    (s.deliver F).ts = s.ts ∧ (s.deliver F).mulb = s.mulb ∧ (s.deliver F).divb = s.divb ∧
    (s.deliver F).axb = s.axb ∧ (s.deliver F).m = s.m ∧ (s.deliver F).d = s.d ∧ (s.deliver F).raw = s.raw ∧
    (s.deliver F).vec = s.vec ∧ (s.deliver F).inbox = s.inbox ∧ (s.deliver F).answers = s.answers ∧
    (s.deliver F).draws = s.draws := by
  simp only [State.deliver, State.gate_keeps, State.takeFrame_keeps, and_self]

@[simp] theorem State.deliver_writes (s : State) (F : List Byte) :
    (s.deliver F).len = frameLength F ∧ (s.deliver F).cur = 0 ∧ (s.deliver F).dpc = 0 ∧
    (s.deliver F).fcause = .none ∧ (s.deliver F).fdpc = 0 ∧ (s.deliver F).fcur = 0 ∧
    (s.deliver F).written = .clear ∧
    (s.deliver F).rb = (if F.length = Config.reportLen then Memory.blank.fill 0 F else s.rb) := by
  simp only [State.deliver, State.gate_keeps, State.gate_cur, State.gate_dpc, State.takeFrame_writes, and_self]

/-- Saturation cannot turn another length into 64 (R27). -/
theorem frameLength_eq_64 (F : List Byte) : frameLength F = 64 ↔ F.length = 64 := by
  have hval : (frameLength F).toNat = min F.length 65535 := by
    simp only [frameLength, Config.lenMax, BitVec.toNat_ofNat]
    exact Nat.mod_eq_of_lt (by omega)
  constructor
  · intro h
    have h64 : (frameLength F).toNat = 64 := by rw [h]; rfl
    omega
  · intro h
    apply BitVec.eq_of_toNat_eq
    rw [hval, h]
    rfl

/-- The gate (R200). -/
@[simp] theorem State.deliver_status (s : State) (F : List Byte) :
    (s.deliver F).status = if F.length = 64 then .busy else .rejected := by
  simp only [State.deliver, State.gate_status, State.takeFrame_writes, frameLength_eq_64]

end Sys2Proof.Machine
end

