-- ==== Sys2Proof/Laws/Ops.lean ====
section
/-! SUPPORT. For each shared operation and each meaning one theorem that says all it can do, so that no proof unfolds
them again. -/

namespace Sys2Proof.Machine

theorem raiseFault_eq (c : Cause) (s : State) : raiseFault c s = .next (s.enterFault c) := rfl

/-- All that `complete` can do (R206, R259). -/
theorem complete_cases {s after t : State} (h : complete s after = .next t) :
    (s.dpc = 31 ∧ t = s.enterFault .romOverrun) ∨ (s.dpc ≠ 31 ∧ t = after.advance) := by
  unfold complete at h
  split at h
  · rename_i hd
    exact .inl ⟨hd, by simpa [raiseFault] using h.symm⟩
  · rename_i hd
    exact .inr ⟨hd, by simpa using h.symm⟩

theorem complete_of_ne {s after : State} (h : s.dpc ≠ 31) : complete s after = .next after.advance :=
  if_neg h

theorem complete_of_eq {s after : State} (h : s.dpc = 31) : complete s after = .next (s.enterFault .romOverrun) :=
  if_pos h

/-- All that a slice can do (R120, R121, R258, R259). -/
theorem slice_cases {w : Nat} {put : Bytes w → State → State} {s t : State} (h : slice w put s = .next t) :
    (s.cur.toNat + w > 64 ∧ t = s.enterFault .cursorOverrun) ∨
    (s.cur.toNat + w ≤ 64 ∧ s.dpc = 31 ∧ t = s.enterFault .romOverrun) ∨
    (s.cur.toNat + w ≤ 64 ∧ s.dpc ≠ 31 ∧ t = ((put (memRead s.rb s.cur.toNat w) s).moveCursor w).advance) := by
  unfold slice at h
  split at h
  · rename_i hw
    exact .inl ⟨hw, by simpa [raiseFault] using h.symm⟩
  · rename_i hw
    have hw' : s.cur.toNat + w ≤ 64 := Nat.le_of_not_lt hw
    obtain ⟨hd, ht⟩ | ⟨hd, ht⟩ := complete_cases h
    · exact .inr (.inl ⟨hw', hd, ht⟩)
    · exact .inr (.inr ⟨hw', hd, ht⟩)

/-- Where a slice takes effect. -/
theorem slice_of_fits {w : Nat} {put : Bytes w → State → State} {s : State} (hw : s.cur.toNat + w ≤ 64)
    (hd : s.dpc ≠ 31) :
    slice w put s = .next ((put (memRead s.rb s.cur.toNat w) s).moveCursor w).advance := by
  have h : ¬ s.cur.toNat + w > Config.reportLen := Nat.not_lt.mpr hw
  simp only [slice, h, if_false]
  exact complete_of_ne hd

theorem slice_of_overrun {w : Nat} {put : Bytes w → State → State} {s : State} (hw : s.cur.toNat + w > 64) :
    slice w put s = .next (s.enterFault .cursorOverrun) := by
  have h : s.cur.toNat + w > Config.reportLen := hw
  simp [slice, h, raiseFault]

theorem slice_of_last {w : Nat} {put : Bytes w → State → State} {s : State} (hw : s.cur.toNat + w ≤ 64)
    (hd : s.dpc = 31) : slice w put s = .next (s.enterFault .romOverrun) := by
  have h : ¬ s.cur.toNat + w > Config.reportLen := Nat.not_lt.mpr hw
  simp only [slice, h, if_false]
  exact complete_of_eq hd

/-! The arms of the four slice instructions as slices. -/

theorem exec_slo (f : OpaqueField) (s : State) : exec (.slo f) s = slice f.width (fun L t => t.putOpaque f L) s := rfl

theorem exec_slm (g : Group) (s : State) : exec (.slm g) s = slice 2 (fun L t => t.putMulb g L) s := rfl

theorem exec_sld (g : Group) (s : State) : exec (.sld g) s = slice 4 (fun L t => t.putDivb g L) s := rfl

theorem exec_sla (g : Group) (a : Axis) (w : AxisWidth) (s : State) :
    exec (.sla g a w) s = slice w.bytes (fun L t => t.putAxis g a (.ofSlice w L)) s := rfl

/-- LDS where both sources hold a value and the index is not the last. -/
theorem exec_lds_of_sources {g : Group} {r : Bool} {s : State} (hf : s.written.scaleSources g = true)
    (hd : s.dpc ≠ 31) :
    exec (.lds g r) s = .next
      (s.putScale g (mul16 (orderBytes r (s.mulb.get g))) (div32 (orderBytes r (s.divb.get g)))).advance :=
  (if_pos hf).trans (complete_of_ne hd)

/-- CNV where both sources hold a value and the index is not the last. -/
theorem exec_cnv_of_sources {g : Group} {a : Axis} {s : State} (hf : s.written.convertSources g a = true)
    (hd : s.dpc ≠ 31) :
    exec (.cnv g a) s = .next
      (s.putVec g a (rawOf (s.axb.at2 g a))
        (scale s.params.nanBits (rawOf (s.axb.at2 g a)) (s.m.get g).toInt (s.d.get g).toInt)).advance :=
  (if_pos hf).trans (complete_of_ne hd)

/-- The cursor after a slice that fits: no wrap (R24). -/
theorem toNat_moveCursor {s : State} {w : Nat} (h : s.cur.toNat + w ≤ 64) :
    (s.moveCursor w).cur.toNat = s.cur.toNat + w := by
  simp only [State.moveCursor, BitVec.toNat_add, BitVec.toNat_ofNat]
  omega

/-- `DPC + 1` below 31: no wrap (R25). -/
theorem toNat_advance {s : State} (h : s.dpc ≠ 31) : s.advance.dpc.toNat = s.dpc.toNat + 1 := by
  have h31 : s.dpc.toNat ≠ 31 := fun e => h (BitVec.eq_of_toNat_eq e)
  have hlt := s.dpc.isLt
  simp only [State.advance, BitVec.toNat_add]
  change (s.dpc.toNat + 1) % 32 = s.dpc.toNat + 1
  omega

/-- All that LDS can do (R152). -/
theorem execLds_cases {g : Group} {r : Bool} {s t : State} (h : execLds g r s = .next t) :
    (s.written.scaleSources g = false ∧ t = s.enterFault .unwrittenSource) ∨
    (s.written.scaleSources g = true ∧ s.dpc = 31 ∧ t = s.enterFault .romOverrun) ∨
    (s.written.scaleSources g = true ∧ s.dpc ≠ 31 ∧
      t = (s.putScale g (mul16 (orderBytes r (s.mulb.get g))) (div32 (orderBytes r (s.divb.get g)))).advance) := by
  unfold execLds at h
  split at h
  · rename_i hf
    obtain ⟨hd, ht⟩ | ⟨hd, ht⟩ := complete_cases h
    · exact .inr (.inl ⟨hf, hd, ht⟩)
    · exact .inr (.inr ⟨hf, hd, ht⟩)
  · rename_i hf
    exact .inl ⟨by simpa using hf, by simpa [raiseFault] using h.symm⟩

/-- All that CNV can do (R170). -/
theorem execCnv_cases {g : Group} {a : Axis} {s t : State} (h : execCnv g a s = .next t) :
    (s.written.convertSources g a = false ∧ t = s.enterFault .unwrittenSource) ∨
    (s.written.convertSources g a = true ∧ s.dpc = 31 ∧ t = s.enterFault .romOverrun) ∨
    (s.written.convertSources g a = true ∧ s.dpc ≠ 31 ∧
      t = (s.putVec g a (rawOf (s.axb.at2 g a))
        (scale s.params.nanBits (rawOf (s.axb.at2 g a)) (s.m.get g).toInt (s.d.get g).toInt)).advance) := by
  unfold execCnv at h
  split at h
  · rename_i hf
    obtain ⟨hd, ht⟩ | ⟨hd, ht⟩ := complete_cases h
    · exact .inr (.inl ⟨hf, hd, ht⟩)
    · exact .inr (.inr ⟨hf, hd, ht⟩)
  · rename_i hf
    exact .inl ⟨by simpa using hf, by simpa [raiseFault] using h.symm⟩

/-- All that END can do (R208). -/
theorem execEndRun_cases {s t : State} (h : execEndRun s = .next t) : t = { s with status := .done } := by
  simpa [execEndRun] using h.symm

theorem AxisBytes.bytes_ofSlice (w : AxisWidth) (L : Bytes w.bytes) : (AxisBytes.ofSlice w L).bytes = L.toList := by
  cases w <;> rfl

theorem AxisBytes.axn_ofSlice (w : AxisWidth) (L : Bytes w.bytes) : (AxisBytes.ofSlice w L).axn = w.bytes := by
  cases w <;> rfl

/-- `MemRead` as a list (R60). -/
theorem toList_memRead (mem : Memory) (addr n : Nat) :
    (memRead mem addr n).toList = (List.range n).map fun i => mem.read (addr + i) := by
  apply List.ext_getElem
  · simp
  · intro i h1 h2
    simp

end Sys2Proof.Machine
end

