-- ==== Sys2Proof/Laws/PerInstr.lean ====
section
/-! SUPPORT. Statements about every instruction as syntax, one lemma per constructor (LAWS.json). -/

namespace Sys2Proof.Laws.LegalWord

/-- The word of the instruction is legal (30_encoding.md R88, R92). -/
def Statement (i : Instr) : Prop :=
  wellFormedWord (encode i) = true

theorem slo (f : OpaqueField) : Statement (.slo f) := by
  cases f <;> rfl

theorem slm (g : Group) : Statement (.slm g) := by
  cases g <;> rfl

theorem sld (g : Group) : Statement (.sld g) := by
  cases g <;> rfl

theorem sla (g : Group) (a : Axis) (w : AxisWidth) : Statement (.sla g a w) := by
  cases g <;> cases a <;> cases w <;> rfl

theorem lds (g : Group) (r : Bool) : Statement (.lds g r) := by
  cases g <;> cases r <;> rfl

theorem cnv (g : Group) (a : Axis) : Statement (.cnv g a) := by
  cases g <;> cases a <;> rfl

theorem endRun : Statement .endRun := rfl

end Sys2Proof.Laws.LegalWord
end

