-- ==== Sys2Proof/Laws/Report.lean ====
section
/-! SUPPORT. The raw bytes of a decoded report are the fields of the wire layout (10_state.md R39, 20_memory.md R67). -/

namespace Sys2Proof.Machine

theorem toList_subList {F : List Byte} {i n : Nat} (h : i + n ≤ F.length) :
    (subList F i n).toList = (F.drop i).take n := by
  apply List.ext_getElem
  · simp; omega
  · intro k h1 h2
    have hk : i + k < F.length := by simp at h1; omega
    simp [subList, List.getElem?_eq_getElem hk]

theorem bytes_frameAxis {F : List Byte} {base : Nat} {w : AxisWidth} {a : Axis}
    (h : base + 6 + a.num.toNat * w.bytes + w.bytes ≤ F.length) :
    (frameAxis F base w a).bytes = (F.drop (base + 6 + a.num.toNat * w.bytes)).take w.bytes := by
  cases w
  · exact toList_subList h
  · exact toList_subList h

/-- The 18 sub-fields of R39 are the 18 fields of R67. -/
theorem subFields_decodeReport {nanBits : Word64} {F : List Byte} {r : ReportRegisters}
    (h : decodeReport nanBits F = some r) :
    r.subFields = wireLayout.map fun field => (F.drop field.1).take field.2 := by
  unfold decodeReport at h
  split at h
  · cases h
  · rename_i hl
    have hl : F.length = 64 := by simpa [Config.reportLen] using hl
    obtain rfl : _ = r := Option.some.inj h
    simp only [ReportRegisters.subFields, GroupRegisters.subFields, decodeGroup, perAxis, wireLayout]
    repeat rw [toList_subList (by omega)]
    repeat rw [bytes_frameAxis (by rw [hl]; decide)]
    rfl

end Sys2Proof.Machine
end

