-- ==== Sys2Proof/Laws/Step.lean ====
section
/-! SUPPORT. All that one step can do, and a run step by step. -/

namespace Sys2Proof.Machine

theorem faulted_eq (c : Cause) (s : State) : faulted c s = s.enterFault c := rfl

/-- The next state of an instruction: a fault entry, END, or an effect followed by the advance of DPC. -/
theorem exec_cases {i : Instr} {s t : State} (h : exec i s = .next t) :
    (∃ c, c ≠ .none ∧ t = s.enterFault c) ∨ (i = .endRun ∧ t = { s with status := .done }) ∨
    (s.dpc ≠ 31 ∧
      ((∃ f, i = .slo f ∧ s.cur.toNat + f.width ≤ 64 ∧
          t = ((s.putOpaque f (memRead s.rb s.cur.toNat f.width)).moveCursor f.width).advance) ∨
       (∃ g, i = .slm g ∧ s.cur.toNat + 2 ≤ 64 ∧
          t = ((s.putMulb g (memRead s.rb s.cur.toNat 2)).moveCursor 2).advance) ∨
       (∃ g, i = .sld g ∧ s.cur.toNat + 4 ≤ 64 ∧
          t = ((s.putDivb g (memRead s.rb s.cur.toNat 4)).moveCursor 4).advance) ∨
       (∃ g a w, i = .sla g a w ∧ s.cur.toNat + w.bytes ≤ 64 ∧
          t = ((s.putAxis g a (.ofSlice w (memRead s.rb s.cur.toNat w.bytes))).moveCursor w.bytes).advance) ∨
       (∃ g r, i = .lds g r ∧ s.written.scaleSources g = true ∧
          t = (s.putScale g (mul16 (orderBytes r (s.mulb.get g))) (div32 (orderBytes r (s.divb.get g)))).advance) ∨
       (∃ g a, i = .cnv g a ∧ s.written.convertSources g a = true ∧
          t = (s.putVec g a (rawOf (s.axb.at2 g a))
            (scale s.params.nanBits (rawOf (s.axb.at2 g a)) (s.m.get g).toInt (s.d.get g).toInt)).advance))) := by
  cases i with
  | slo f =>
    have h : slice f.width (fun L t => t.putOpaque f L) s = .next t := h
    obtain ⟨_, ht⟩ | ⟨_, _, ht⟩ | ⟨hw, hd, ht⟩ := slice_cases h
    · exact .inl ⟨_, by decide, ht⟩
    · exact .inl ⟨_, by decide, ht⟩
    · exact .inr (.inr ⟨hd, .inl ⟨f, rfl, hw, ht⟩⟩)
  | slm g =>
    have h : slice 2 (fun L t => t.putMulb g L) s = .next t := h
    obtain ⟨_, ht⟩ | ⟨_, _, ht⟩ | ⟨hw, hd, ht⟩ := slice_cases h
    · exact .inl ⟨_, by decide, ht⟩
    · exact .inl ⟨_, by decide, ht⟩
    · exact .inr (.inr ⟨hd, .inr (.inl ⟨g, rfl, hw, ht⟩)⟩)
  | sld g =>
    have h : slice 4 (fun L t => t.putDivb g L) s = .next t := h
    obtain ⟨_, ht⟩ | ⟨_, _, ht⟩ | ⟨hw, hd, ht⟩ := slice_cases h
    · exact .inl ⟨_, by decide, ht⟩
    · exact .inl ⟨_, by decide, ht⟩
    · exact .inr (.inr ⟨hd, .inr (.inr (.inl ⟨g, rfl, hw, ht⟩))⟩)
  | sla g a w =>
    have h : slice w.bytes (fun L t => t.putAxis g a (.ofSlice w L)) s = .next t := h
    obtain ⟨_, ht⟩ | ⟨_, _, ht⟩ | ⟨hw, hd, ht⟩ := slice_cases h
    · exact .inl ⟨_, by decide, ht⟩
    · exact .inl ⟨_, by decide, ht⟩
    · exact .inr (.inr ⟨hd, .inr (.inr (.inr (.inl ⟨g, a, w, rfl, hw, ht⟩)))⟩)
  | lds g r =>
    obtain ⟨_, ht⟩ | ⟨_, _, ht⟩ | ⟨hf, hd, ht⟩ := execLds_cases h
    · exact .inl ⟨_, by decide, ht⟩
    · exact .inl ⟨_, by decide, ht⟩
    · exact .inr (.inr ⟨hd, .inr (.inr (.inr (.inr (.inl ⟨g, r, rfl, hf, ht⟩))))⟩)
  | cnv g a =>
    obtain ⟨_, ht⟩ | ⟨_, _, ht⟩ | ⟨hf, hd, ht⟩ := execCnv_cases h
    · exact .inl ⟨_, by decide, ht⟩
    · exact .inl ⟨_, by decide, ht⟩
    · exact .inr (.inr ⟨hd, .inr (.inr (.inr (.inr (.inr ⟨g, a, rfl, hf, ht⟩))))⟩)
  | endRun => exact .inr (.inl ⟨rfl, execEndRun_cases h⟩)

/-- All that the sequencer's turn can do (R201, R202). -/
theorem sequencerTurn_cases {s t : State} (h : sequencerTurn s = .next t) :
    (s.status ≠ .busy ∧ t = s) ∨
    (s.status = .busy ∧ (∃ e, decode (fetch s) = .error e) ∧ t = s.enterFault .illegalDescriptor) ∨
    (s.status = .busy ∧ ∃ i, decode (fetch s) = .ok i ∧ exec i s = .next t) := by
  unfold sequencerTurn State.hasStep sequencerStep at h
  split at h
  · rename_i hb
    have hb' : s.status = .busy := by simpa using hb
    split at h
    · rename_i e he
      exact .inr (.inl ⟨hb', ⟨e, he⟩, by simpa [raiseFault] using h.symm⟩)
    · rename_i i hi
      exact .inr (.inr ⟨hb', i, hi, h⟩)
  · rename_i hb
    exact .inl ⟨by simpa using hb, by simpa using h.symm⟩

/-- All that a step can do (R220, R222; log 6). -/
theorem step_cases {s t : State} (h : step s = .next t) :
    (s.inbox = [] ∧ sequencerTurn s = .next t) ∨
    (∃ rest, s.inbox = .pass :: rest ∧ sequencerTurn { s with inbox := rest } = .next t) ∨
    (∃ F rest, s.inbox = .deliver F :: rest ∧ s.status = .busy ∧ sequencerTurn s = .next t) ∨
    (∃ F rest, s.inbox = .deliver F :: rest ∧ s.status ≠ .busy ∧ t = { s with inbox := rest }.deliver F) ∨
    (∃ n rest, s.inbox = .read n :: rest ∧ t = { s with inbox := rest }.takeRead n) ∨
    (∃ rest, s.inbox = .reset :: rest ∧ t = { s with inbox := rest }.resetBlock) := by
  unfold step turn at h
  split at h
  · rename_i hi
    exact .inl ⟨hi, h⟩
  · rename_i rest hi
    exact .inr (.inl ⟨rest, hi, h⟩)
  · rename_i F rest hi
    split at h
    · rename_i hr
      exact .inr (.inr (.inr (.inl ⟨F, rest, hi, by simpa [State.frReady] using hr, by simpa using h.symm⟩)))
    · rename_i hr
      exact .inr (.inr (.inl ⟨F, rest, hi, by simpa [State.frReady] using hr, h⟩))
  · rename_i n rest hi
    exact .inr (.inr (.inr (.inr (.inl ⟨n, rest, hi, by simpa using h.symm⟩))))
  · rename_i rest hi
    exact .inr (.inr (.inr (.inr (.inr ⟨rest, hi, by simpa using h.symm⟩))))

theorem runFor_zero (s : State) : runFor 0 s = .next s := rfl

theorem runFor_succ {n : Nat} {s t : State} (h : step s = .next t) : runFor (n + 1) s = runFor n t := by
  have h' : Sys2Proof.core.step s = .next t := h
  simp only [runFor, Host.Core.run, h']
  rfl

end Sys2Proof.Machine
end

