-- ==== Sys2Proof/Tests/Slice0.lean ====
section
/-! SUPPORT. The model's own tests: the well-formedness smoke tests, words written out from the spec's encodings, at most
two small tests an instruction (expected values from 95_test_vectors.md, the vector named in each docstring), and for
every obligation with hypotheses a witness that meets them. -/

namespace Sys2Proof.Tests

open Sys2Proof.Machine

/-! ## States the tests use -/

/-- The frame `F[i] = i` (95_test_vectors.md 2.8). -/
def countingFrame : List Byte := (List.range 64).map (BitVec.ofNat 8)

def zeroFrame : List Byte := List.replicate 64 0

/-- A decode of the counting frame in progress, at a cursor and an index. -/
def decoding (cur : BitVec 7) (dpc : BitVec 5) : State :=
  { State.reset.deliver countingFrame with cur := cur, dpc := dpc }

def allGroups : PerGroup Bool := .all true

def allAxes : PerGroup (PerAxis Bool) := .all (.all true)

/-- All 30 flags set. -/
def allWritten : WFlags := ⟨true, true, true, allGroups, allGroups, allAxes, allGroups, allAxes⟩

/-- The flags of SIG, TEMP, TS and of everything of ANG. -/
def firstGroupWritten : WFlags :=
  ⟨true, true, true, ⟨true, false, false⟩, ⟨true, false, false⟩, ⟨.all true, .all false, .all false⟩,
    ⟨true, false, false⟩, ⟨.all true, .all false, .all false⟩⟩

/-- A group's byte registers for LDS. -/
def withScaleBytes (g : Group) (mb : Bytes 2) (db : Bytes 4) : State :=
  ((decoding 54 8).putMulb g mb).putDivb g db

/-- An axis and a pair for CNV. -/
def withAxisAndPair (g : Group) (a : Axis) (field : AxisBytes) (m d : Int) : State :=
  ((decoding 54 9).putAxis g a field).putScale g m d

/-- A finished decode with every register written. -/
def finished : State := { decoding 54 30 with status := .done, written := allWritten }

/-- The state after a fault. -/
def afterFault : State := (decoding 11 4).enterFault .unwrittenSource

/-- A decode with a given word to run next. -/
def aboutToRun (word : Byte) (cur : BitVec 7) (dpc : BitVec 5) : State := (decoding cur dpc).readyToRun word

/-- One field of the next state, if there is one. -/
def nextOf {α : Type} (r : Result) (f : State → α) : Option α :=
  match r with
  | .next t => some (f t)
  | .fault _ => none
  | .refused _ => none

theorem next_of_isSome {r : Result} (h : (nextOf r fun _ => ()).isSome = true) : ∃ t, r = .next t := by
  cases r with
  | next t => exact ⟨t, rfl⟩
  | fault f => cases f
  | refused q => simp [nextOf] at h

/-! ## Well-formedness: an ill-formed term for each check, refused -/

theorem test_wf_reserved_op : wellFormedWord 0x1F = false := by decide
theorem test_wf_group_3 : wellFormedWord 0x58 = false := by decide
theorem test_wf_sel_3 : wellFormedWord 0xC6 = false := by decide
theorem test_wf_must_be_zero : wellFormedWord 0x42 = false := by decide
theorem test_wf_end_low_bits : wellFormedWord 0xFF = false := by decide
theorem test_wf_scale_before_divisor :
    checkProgram [.slm .ang, .lds .ang false, .endRun] = .error (.scaleBytesMissing 1) := by decide
theorem test_wf_convert_before_scale :
    checkProgram [.slm .ang, .sld .ang, .sla .ang .x .w3, .cnv .ang .x, .endRun] = .error (.axisOrScaleMissing 3) := by
  decide
theorem test_wf_slices_too_wide :
    checkProgram (List.replicate 8 (.slo .ts) ++ [.slm .ang, .endRun]) = .error (.slicesTooWide 8) := by decide
theorem test_wf_no_end : checkProgram [.slo .sig] = .error .noEnd := by decide
theorem test_wf_end_too_late : checkProgram (List.replicate 32 (.slo .sig)) = .error .endTooLate := by decide
theorem test_wf_canonical_program : wellFormedProgram expandReport = true := by decide

/-! ## Words written out from the patterns of 30_encoding.md R88 -/

theorem test_decode_slo : decode 0b00100100 = .ok (.slo .ts) := by decide
theorem test_decode_slm : decode 0b01010000 = .ok (.slm .mag) := by decide
theorem test_decode_sld : decode 0b01101000 = .ok (.sld .acc) := by decide
theorem test_decode_sla : decode 0b10001101 = .ok (.sla .acc .z .w3) := by decide
theorem test_decode_sla_narrow : decode 0b10010010 = .ok (.sla .mag .y .w2) := by decide
theorem test_decode_lds : decode 0b10110001 = .ok (.lds .mag true) := by decide
theorem test_decode_cnv : decode 0b11001010 = .ok (.cnv .acc .y) := by decide
theorem test_decode_end : decode 0b11100000 = .ok .endRun := by decide
theorem test_decode_blank_rom : decode 0b00000000 = .error .reservedOp := by decide
theorem test_table_word : decodeTableWord 8 0x8B = some (.sla .acc .y .w3) := by decide
theorem test_fetch_word_runs :
    nextOf (step (State.reset.withFetchWord 8 0x40)) (fun t => (t.cur, t.dpc, t.status)) = some (2, 1, .busy) := by decide

/-! ## The instructions -/

/-- V-S3. -/
theorem test_slo_ts : nextOf (exec (.slo .ts) (decoding 4 2)) (fun t => (t.ts, t.cur)) =
    some (#v[4, 5, 6, 7, 8, 9, 10, 11], 12) := by decide

/-- V-S8: `CUR + w = 64` is legal. -/
theorem test_slo_last_bytes : nextOf (exec (.slo .ts) (decoding 56 2)) (fun t => (t.ts[7], t.cur, t.status)) =
    some (0x3F, 64, .busy) := by decide

/-- V-S10. -/
theorem test_slm_past_the_buffer : nextOf (exec (.slm .ang) (decoding 63 3)) (fun t => (t.status, t.fcause, t.fcur)) =
    some (.fault, .cursorOverrun, 63) := by decide

/-- V-S4. -/
theorem test_slm_ang : nextOf (exec (.slm .ang) (decoding 12 3)) (fun t => (t.mulb.ang, t.written.word)) =
    some (#v[0x0C, 0x0D], 0x8) := by decide

/-- V-S5: wire order, not reversed. -/
theorem test_sld_mag : nextOf (exec (.sld .mag) (decoding 44 22)) (fun t => (t.divb.mag, t.written.word)) =
    some (#v[0x2C, 0x2D, 0x2E, 0x2F], 0x100) := by decide

/-- V-S7. -/
theorem test_sla_mag_z : nextOf (exec (.sla .mag .z .w2) (decoding 52 25)) (fun t => (t.axb.mag.z, t.cur)) =
    some (.b16 #v[0x34, 0x35], 54) := by decide

/-- V-S6. -/
theorem test_sla_ang_x : nextOf (exec (.sla .ang .x .w3) (decoding 18 5)) (fun t => (t.axb.ang.x, t.written.word)) =
    some (.s24 #v[0x12, 0x13, 0x14], 0x200) := by decide

/-- V-L3: NRV's pinned reversal. -/
theorem test_lds_reversed :
    nextOf (exec (.lds .mag true) (withScaleBytes .mag #v[0x02, 0x00] #v[0x01, 0, 0, 0]))
      (fun t => (t.m.mag.toInt, t.d.mag.toInt, t.mulb.mag)) = some (512, 16777216, #v[0x02, 0x00]) := by decide

/-- V-L7: with `r = 1` the sign comes from wire byte 0. -/
theorem test_lds_sign :
    nextOf (exec (.lds .mag true) (withScaleBytes .mag #v[0x80, 0x00] #v[0x80, 0, 0, 0]))
      (fun t => (t.m.mag.toInt, t.d.mag.toInt)) = some (-32768, -2147483648) := by decide

/-- V-C16. -/
theorem test_cnv_inexact :
    nextOf (exec (.cnv .ang .x) (withAxisAndPair .ang .x (.s24 #v[0x56, 0x34, 0x12]) 1000 1000000))
      (fun t => (t.raw.ang.x.toInt, t.vec.ang.x)) = some (1193046, 0x4092A42F1A9FBE77) := by decide

/-- V-C27: a 2-byte axis with its high byte's top bit set. -/
theorem test_cnv_biased :
    nextOf (exec (.cnv .mag .z) (withAxisAndPair .mag .z (.b16 #v[0xFF, 0xFF]) 512 16777216))
      (fun t => (t.raw.mag.z.toInt, t.vec.mag.z)) = some (-32769, 0xBFF0002000000000) := by decide

/-- V-F4: END at index 31 is legal. -/
theorem test_end_at_31 : nextOf (exec .endRun (decoding 62 31)) (fun t => (t.status, t.dpc, t.cur, t.fcause)) =
    some (.done, 31, 62, .none) := by decide

/-! ## Functions -/

/-- V-B5, V-B8, V-B9 of RAW2; V-T9 of RAW3; V-D12 of DIV32; V-M8 of MUL16. -/
theorem test_unpack : raw2 #v[0x00, 0x80] = -65536 ∧ raw2 #v[0xFF, 0xFF] = -32769 ∧ raw2 #v[0x34, 0x12] = 37428 ∧
    raw3 #v[0x98, 0xBA, 0xDC] = -2311528 ∧ div32 #v[0xC0, 0xBD, 0xF0, 0xFF] = -1000000 ∧
    mul16 #v[0x18, 0xFC] = -1000 := by decide

/-- V-C11, V-C14, V-C21, V-C35, V-C38. -/
theorem test_scale : scale 0 1 1 10 = 0x3FB999999999999A ∧ scale 0 100 (-32768) 3 = 0xC130AAAAAAAAAAAB ∧
    scale 0 1 1 (-2147483648) = 0xBE00000000000000 ∧ scale 0 (-3) 0 7 = 0x8000000000000000 ∧
    scale 0 (-5) 1 0 = 0xFFF0000000000000 := by decide

/-- V-C41: the NaN delivered is NAN_BITS. -/
theorem test_nan_default : scale Params.standard.nanBits 0 1 0 = 0x7FF8000000000000 ∧
    isNan Params.standard.nanBits = true := by decide

/-- V-G6 and V-G7. -/
theorem test_deliver : frameLength (List.replicate 64 0) = 64 ∧
    (State.reset.deliver zeroFrame).status = .busy ∧ (State.reset.deliver [1, 2, 3]).status = .rejected ∧
    (State.reset.deliver [1, 2, 3]).len = 3 := by decide

/-- R39 and R67 on the counting frame: 18 texts, among them those of MULB[ACC] and AXB[MAG][z]. -/
theorem test_raw_hex :
    (decodeReport 0 countingFrame).map (fun r => (r.decoded.rawHex.length, r.decoded.rawHex[8]?, r.decoded.rawHex[17]?)) =
      some (18, some "1b 1c".toList, some "34 35".toList) := by decide

/-- R40: MULB[MAG] stands at 0x30 and VEC[ACC][z] at 0x4F. -/
theorem test_register_numbers : regOfNumber 0x30 = some (.mulb .mag) ∧ regOfNumber 0x4F = some (.vec .acc .z) ∧
    regOfNumber 0x0F = none := by decide

/-- 95_test_vectors.md 2.12. -/
theorem test_hex : hexText [0x0A, 0xFF] = "0a ff".toList := by decide

/-- 30_encoding.md R104, row 14, as a listing line of R108. -/
theorem test_listing : listingLine 14 (.sla .acc .x .w3) = "14: 0x89  SLA ACC, x, 3".toList := by decide

/-- P4's comment (95_test_vectors.md part 3) and a line that R108 does not allow. -/
theorem test_parse : parseLine "CNV ANG, x        ; SCALE_W[ANG] = 0".toList = .code (.instr (.cnv .ang .x)) ∧
    parseLine "SLA ANG, x, 4".toList = .bad ∧ parseLine "; only a comment".toList = .blank := by decide

/-! ## Witnesses: states and operands that meet the hypotheses of each obligation -/

theorem witness_MultiplierReading : (-32768 : Int) ≤ -32768 ∧ (-32768 : Int) ≤ 32767 ∧ (32767 : Int) ≤ 32767 := by decide

theorem witness_BiasXorAtEveryWidth : ∃ (w : Nat) (s s' : Int), 9 ≤ w ∧ -128 ≤ s ∧ s ≤ 127 ∧ s < 0 ∧ -128 ≤ s' ∧
    s' ≤ 127 ∧ 0 ≤ s' :=
  ⟨9, -1, 0, by decide, by decide, by decide, by decide, by decide, by decide, by decide⟩

theorem witness_SloEffect : ∃ (f : OpaqueField) (s : State), s.cur.toNat + f.width ≤ 64 ∧ s.dpc ≠ 31 :=
  ⟨.ts, decoding 56 30, by decide, by decide⟩

theorem witness_SlmEffect : ∃ s : State, s.cur.toNat + 2 ≤ 64 ∧ s.dpc ≠ 31 :=
  ⟨decoding 62 30, by decide, by decide⟩

theorem witness_SldEffect : ∃ s : State, s.cur.toNat + 4 ≤ 64 ∧ s.dpc ≠ 31 :=
  ⟨decoding 60 30, by decide, by decide⟩

theorem witness_SlaEffect : ∃ (w : AxisWidth) (s : State), s.cur.toNat + w.bytes ≤ 64 ∧ s.dpc ≠ 31 :=
  ⟨.w3, decoding 61 30, by decide, by decide⟩

theorem witness_SliceFrame : ∃ (i : Instr) (s t : State), isSlice i = true ∧ s.cur.toNat + i.sliceWidth ≤ 64 ∧
    s.dpc ≠ 31 ∧ exec i s = .next t :=
  ⟨.sla .mag .z .w2, decoding 62 30, _, by decide, by decide, by decide,
    (exec_sla _ _ _ _).trans (slice_of_fits (by decide) (by decide))⟩

theorem witness_LdsEffect : ∃ (g : Group) (s : State), s.written.mulbW.get g = true ∧ s.written.divbW.get g = true ∧
    s.dpc ≠ 31 :=
  ⟨.mag, withScaleBytes .mag #v[2, 0] #v[1, 0, 0, 0], by decide, by decide, by decide⟩

theorem witness_CnvEffect_three : ∃ (g : Group) (a : Axis) (s : State) (L : Bytes 3), s.written.axbW.at2 g a = true ∧
    s.written.scaleW.get g = true ∧ s.dpc ≠ 31 ∧ s.axb.at2 g a = .s24 L :=
  ⟨.ang, .x, withAxisAndPair .ang .x (.s24 #v[1, 2, 3]) 1 1, #v[1, 2, 3], by decide, by decide, by decide, by decide⟩

theorem witness_CnvEffect_two : ∃ (g : Group) (a : Axis) (s : State) (L : Bytes 2), s.written.axbW.at2 g a = true ∧
    s.written.scaleW.get g = true ∧ s.dpc ≠ 31 ∧ s.axb.at2 g a = .b16 L :=
  ⟨.mag, .z, withAxisAndPair .mag .z (.b16 #v[1, 2]) 1 0, #v[1, 2], by decide, by decide, by decide, by decide⟩

theorem witness_ScaleAndConvertFrame_lds : ∃ (g : Group) (r : Bool) (s t : State), ¬ s.sourceMissing (.lds g r) ∧
    s.dpc ≠ 31 ∧ exec (.lds g r) s = .next t :=
  ⟨.mag, true, withScaleBytes .mag #v[2, 0] #v[1, 0, 0, 0], _, by simp only [State.sourceMissing]; decide, by decide,
    exec_lds_of_sources (by decide) (by decide)⟩

theorem witness_ScaleAndConvertFrame_cnv : ∃ (g : Group) (a : Axis) (s t : State), ¬ s.sourceMissing (.cnv g a) ∧
    s.dpc ≠ 31 ∧ exec (.cnv g a) s = .next t :=
  ⟨.mag, .z, withAxisAndPair .mag .z (.b16 #v[1, 2]) 1 0, _, by simp only [State.sourceMissing]; decide, by decide,
    exec_cnv_of_sources (by decide) (by decide)⟩

theorem witness_MeaningIsTheSameForEveryGroup : ∃ (i : Instr) (s t : State), exec i s = .next t :=
  ⟨.slm .ang, decoding 62 30, _, (exec_slm _ _).trans (slice_of_fits (by decide) (by decide))⟩

theorem witness_FaultChecksInOrder_illegal : ∃ s : State, s.status = .busy ∧ s.inbox = [] ∧
    decode (fetch s) = .error .reservedOp ∧ s.dpc = 31 ∧ s.cur.toNat = 62 :=
  ⟨aboutToRun 0x00 62 31, by decide, by decide, by decide, by decide, by decide⟩

theorem witness_FaultChecksInOrder_source : ∃ s : State, s.status = .busy ∧ s.inbox = [] ∧
    decode (fetch s) = .ok (.lds .ang false) ∧ s.sourceMissing (.lds .ang false) ∧ s.dpc = 31 :=
  ⟨aboutToRun 0xA0 62 31, by decide, by decide, by decide, .inl (by decide), by decide⟩

theorem witness_FaultChecksInOrder_overrun : ∃ s : State, s.status = .busy ∧ s.inbox = [] ∧
    decode (fetch s) = .ok (.slo .ts) ∧ s.overruns (.slo .ts) ∧ s.dpc = 31 :=
  ⟨aboutToRun 0x24 57 31, by decide, by decide, by decide, ⟨by decide, by decide⟩, by decide⟩

theorem witness_FaultChecksInOrder_last : ∃ s : State, s.status = .busy ∧ s.inbox = [] ∧
    decode (fetch s) = .ok (.slo .sig) ∧ ¬ s.sourceMissing (.slo .sig) ∧ ¬ s.overruns (.slo .sig) ∧ s.dpc = 31 :=
  ⟨aboutToRun 0x20 62 31, by decide, by decide, by decide, fun h => h, fun h => absurd h.2 (by decide), by decide⟩

theorem witness_FaultChecksInOrder_none : ∃ s : State, s.status = .busy ∧ s.inbox = [] ∧
    decode (fetch s) = .ok .endRun ∧ ¬ s.sourceMissing .endRun ∧ ¬ s.overruns .endRun :=
  ⟨aboutToRun 0xE0 62 31, by decide, by decide, by decide, fun h => h, fun h => absurd h.1 (by decide)⟩

theorem witness_FaultsArePrecise : ∃ s t : State, s.status = .busy ∧ s.inbox = [] ∧ step s = .next t ∧
    t.status = .fault :=
  ⟨aboutToRun 0xC0 11 4, (aboutToRun 0xC0 11 4).enterFault .unwrittenSource, by decide, by decide, rfl, by decide⟩

theorem witness_FaultIsSticky_stays : ∃ s t : State, s.status = .fault ∧ s.inbox = [.read 0x02] ∧ step s = .next t :=
  ⟨{ afterFault with inbox := [.read 0x02] }, _, by decide, by decide, rfl⟩

theorem witness_FaultIsSticky_deliver : ∃ s t : State, s.status = .fault ∧ s.inbox = [.deliver zeroFrame] ∧
    step s = .next t :=
  ⟨{ afterFault with inbox := [.deliver zeroFrame] }, _, by decide, by decide, rfl⟩

theorem witness_FaultIsSticky_reset : ∃ s t : State, s.status = .fault ∧ s.inbox = [.reset] ∧ step s = .next t :=
  ⟨{ afterFault with inbox := [.reset] }, _, by decide, by decide, rfl⟩

theorem witness_StepRunsTheDecodedInstruction : ∃ s : State, s.status = .busy ∧ s.inbox = [] ∧
    decode (s.params.layoutRom[s.dpc.toNat]'s.dpc.isLt) = .ok (.slm .ang) :=
  ⟨aboutToRun 0x40 12 3, by decide, by decide, by decide⟩

theorem witness_SequencerStepsExactlyWhenBusy : ∃ s s' : State, s.inbox = [] ∧ s.status ≠ .busy ∧ s'.inbox = [] ∧
    s'.status = .busy :=
  ⟨State.reset, decoding 0 0, by decide, by decide, by decide, by decide⟩

theorem witness_StatusTransitions : ∃ s t : State, step s = .next t ∧ s.status = .idle ∧ t.status = .busy :=
  ⟨{ State.reset with inbox := [.deliver zeroFrame] }, State.reset.deliver zeroFrame, rfl, by decide, by decide⟩

theorem witness_BufferAndCursorUnderTheSequencer : ∃ s t : State,
    (∀ F rest, s.inbox = .deliver F :: rest → s.status = .busy) ∧ (∀ rest, s.inbox ≠ .reset :: rest) ∧
    step s = .next t :=
  ⟨aboutToRun 0x40 62 30, _, fun _ _ h => absurd h (by simp [aboutToRun, State.readyToRun]),
    fun _ => by simp [aboutToRun, State.readyToRun], rfl⟩

theorem witness_ParametersAreNeverWritten : ∃ s t : State, step s = .next t ∧ s.inbox = [.reset] :=
  ⟨{ State.reset with inbox := [.reset] }, _, rfl, rfl⟩

theorem witness_StepKeepsTheInvariant : ∃ s t : State, Inv s ∧ s.status = .busy ∧ step s = .next t := by
  refine ⟨State.reset.deliver countingFrame, _, ?_, by decide, rfl⟩
  exact
    { bufferCanonical := by decide
      cursorInBuffer := by decide
      faultHasCause := by decide
      faultHasPosition := by decide
      noFaultNoPosition := by decide
      romOverrunAtEnd := by decide
      decodesFullFrames := by decide
      rejectsOtherFrames := by decide
      idleHasNoFrame := by decide
      nothingWithoutFrame := by decide
      scaleHasBytes := fun g => by cases g <;> decide
      vectorHasSources := fun g a => by cases g <;> cases a <;> decide }

theorem witness_ResetLeavesTheStatedValues : ∃ s : State, s.inbox = .reset :: [] ∧ s.status = .busy :=
  ⟨{ decoding 27 10 with inbox := [.reset] }, by decide, by decide⟩

theorem witness_DeliverEffect_accepted : ∃ (s : State) (F : List Byte), s.status ≠ .busy ∧ s.inbox = .deliver F :: [] ∧
    F.length = 64 :=
  ⟨{ finished with inbox := [.deliver zeroFrame] }, zeroFrame, by decide, by decide, by decide⟩

theorem witness_DeliverEffect_rejected : ∃ (s : State) (F : List Byte), s.status ≠ .busy ∧ s.inbox = .deliver F :: [] ∧
    F.length ≠ 64 :=
  ⟨{ finished with inbox := [.deliver (0 :: zeroFrame)] }, 0 :: zeroFrame, by decide, by decide, by decide⟩

theorem witness_DeliverWaitsWhileBusy : ∃ (s t : State), s.status = .busy ∧ s.inbox = .deliver zeroFrame :: [] ∧
    step { s with inbox := [] } = .next t :=
  ⟨{ aboutToRun 0x40 12 3 with inbox := [.deliver zeroFrame] }, _, by decide, by decide, rfl⟩

theorem witness_ReadChangesNothing : ∃ s : State, s.inbox = .read 0x45 :: [] ∧ s.status = .done :=
  ⟨{ finished with inbox := [.read 0x45] }, by decide, by decide⟩

theorem witness_ByteRegistersRead : ∃ s : State, s.status ≠ .busy ∧ s.written.sigW = true ∧ s.written.tempW = true ∧
    s.written.tsW = true ∧ s.written.mulbW.get .mag = true ∧ s.written.divbW.get .mag = true ∧
    s.written.axbW.at2 .mag .z = true ∧ (s.axb.at2 .mag .z).axn = 2 :=
  ⟨finished, by decide, by decide, by decide, by decide, by decide, by decide, by decide, by decide⟩

theorem witness_NumberRegistersRead : ∃ s : State, s.status ≠ .busy ∧ s.written.scaleW.get .mag = true ∧
    s.written.vecW.at2 .mag .z = true :=
  ⟨finished, by decide, by decide, by decide⟩

theorem witness_UnmappedNumbersReadZero :
    ([0x08, 0x0F, 0x13, 0x1F, 0x25, 0x37, 0x38, 0x3F, 0x58, 0xFF].all fun n : Byte => decide
      ((0x07 < n.toNat ∧ n.toNat < 0x10) ∨ (0x12 < n.toNat ∧ n.toNat < 0x20) ∨
        (0x20 ≤ n.toNat ∧ n.toNat < 0x38 ∧ 5 ≤ n.toNat % 8) ∨ (0x38 ≤ n.toNat ∧ n.toNat < 0x40) ∨
        0x58 ≤ n.toNat)) = true := by decide

theorem witness_UndefinedReadsAreDrawn_busy : ∃ (s : State) (n : Byte) (r : RegName), s.inbox = .read n :: [] ∧
    regOfNumber n = some r ∧ 0x10 ≤ n.toNat ∧ s.status = .busy ∧ s.written.ofReg r = true :=
  ⟨{ decoding 54 29 with inbox := [.read 0x10], written := allWritten }, 0x10, .sig, by decide, by decide, by decide,
    by decide, by decide⟩

theorem witness_UndefinedReadsAreDrawn_unwritten : ∃ (s : State) (n : Byte) (r : RegName), s.inbox = .read n :: [] ∧
    regOfNumber n = some r ∧ 0x10 ≤ n.toNat ∧ s.status ≠ .busy ∧ s.written.ofReg r = false :=
  ⟨{ State.reset with inbox := [.read 0x57] }, 0x57, .vec .mag .z, by decide, by decide, by decide, by decide, by decide⟩

theorem witness_DoneHoldsTheReport : ∃ s t : State, s.status = .done ∧ (∀ F rest, s.inbox ≠ .deliver F :: rest) ∧
    (∀ rest, s.inbox ≠ .reset :: rest) ∧ step s = .next t :=
  ⟨{ finished with inbox := [.read 0x45] }, _, by decide, fun _ _ => by simp, fun _ => by simp, rfl⟩

theorem witness_HexText : ∃ L : List Byte, L ≠ [] ∧ 0 + 1 < L.length :=
  ⟨[0x0A, 0xFF], by decide, by decide⟩

theorem witness_InstancesAreIndependent : ∃ (sys : System) (k j : Nat), k ≠ j ∧ sys.decoders[k]? ≠ none ∧
    sys.decoders[j]? ≠ none :=
  ⟨System.start 2 .standard, 0, 1, by decide, by decide, by decide⟩

theorem witness_ConversionIsExact : ((2 ^ 53 - 1 : Int)).natAbs < 2 ^ 53 ∧ (-(2 ^ 53 - 1) : Int).natAbs < 2 ^ 53 := by
  decide

/-- The integer clause, at the largest magnitude. -/
theorem witness_QuotientIsNearest_integer : ∃ (raw : BitVec 24) (m : BitVec 16) (d : BitVec 32), d.toInt ≠ 0 ∧
    raw.toInt * m.toInt ≠ 0 ∧ d.toInt ∣ raw.toInt * m.toInt :=
  ⟨0x800000, 0x8000, 1, by decide, by decide, by decide⟩

theorem witness_QuotientIsNormal : ∃ (raw : BitVec 24) (m : BitVec 16) (d : BitVec 32), d.toInt ≠ 0 ∧
    raw.toInt * m.toInt ≠ 0 :=
  ⟨1, 1, 0x80000000, by decide, by decide⟩

/-- The nearness clause: a result and another finite value. -/
theorem witness_QuotientIsNearest_other : ∃ (raw : BitVec 24) (m : BitVec 16) (d : BitVec 32) (q q' : ℚ) (w : Word64),
    d.toInt ≠ 0 ∧ raw.toInt * m.toInt ≠ 0 ∧ fpValue (scale 0 raw.toInt m.toInt d.toInt) = some q ∧
    fpValue w = some q' ∧ q' ≠ q := by
  have hs : fpKind (scale 0 (1 : BitVec 24).toInt (1 : BitVec 16).toInt (2 : BitVec 32).toInt)
      = .finite (2 ^ 52) (-53) := by decide
  have hz : fpKind 0 = .zero := by decide
  refine ⟨1, 1, 2, _, 0, 0, by decide, by decide, by simp only [fpValue, hs]; rfl, by simp only [fpValue, hz], ?_⟩
  have hsign : fpSign (scale 0 (1 : BitVec 24).toInt (1 : BitVec 16).toInt (2 : BitVec 32).toInt) = false := by decide
  rw [hsign]
  norm_num

theorem witness_ZeroNumerator : ∃ (raw : BitVec 24) (m : BitVec 16) (d : BitVec 32), d.toInt ≠ 0 ∧
    raw.toInt * m.toInt = 0 ∧ raw.toInt < 0 :=
  ⟨0xFFFFFD, 0, 7, by decide, by decide, by decide⟩

theorem witness_ZeroDivisor : (5 : BitVec 24).toInt * (1 : BitVec 16).toInt > 0 ∧
    (0xFFFFFB : BitVec 24).toInt * (1 : BitVec 16).toInt < 0 ∧ (0 : BitVec 24).toInt * (0xFFFF : BitVec 16).toInt = 0 := by
  decide

theorem witness_MachineAgreesWithDecodeReport : ∃ (s : State) (F : List Byte),
    s.params.layoutRom = Config.canonicalRom ∧ s.status ≠ .busy ∧ s.inbox = [] ∧
    (decodeReport s.params.nanBits F).isSome = true ∧ decodeReport s.params.nanBits (0 :: F) = none :=
  ⟨State.reset, countingFrame, by decide, by decide, by decide, by decide, by decide⟩

theorem witness_EveryRunEnds : ∃ s : State, s.status = .busy ∧ s.dpc = 0 ∧ s.inbox = [] :=
  ⟨decoding 0 0, by decide, by decide, by decide⟩

theorem witness_CanonicalRomNeverFaults : ∃ t : State,
    runFor 1 { State.reset with inbox := [.deliver zeroFrame], params := ⟨Config.canonicalRom, 0x7FF8000000000000⟩ } =
      .next t :=
  ⟨_, rfl⟩

theorem witness_ResultDependsOnTheFrameAlone : ∃ (s₁ s₂ t₁ t₂ : State), s₁.params = s₂.params ∧ s₁ ≠ s₂ ∧
    s₁.status ≠ .busy ∧ s₂.status ≠ .busy ∧ s₁.inbox = [] ∧ s₂.inbox = [] ∧
    runFor 31 (s₁.deliver zeroFrame) = .next t₁ ∧ runFor 31 (s₂.deliver zeroFrame) = .next t₂ := by
  obtain ⟨t₁, h₁⟩ := next_of_isSome (r := runFor 31 (State.reset.deliver zeroFrame)) (by decide +kernel)
  obtain ⟨t₂, h₂⟩ := next_of_isSome (r := runFor 31 (finished.deliver zeroFrame)) (by decide +kernel)
  exact ⟨State.reset, finished, t₁, t₂, by decide, by decide, by decide, by decide, by decide, by decide, h₁, h₂⟩

theorem witness_TrailingBytesAreUnused : ∃ (F F' : List Byte) (t t' : State), F ≠ F' ∧ F.length = 64 ∧ F'.length = 64 ∧
    F.take 54 = F'.take 54 ∧ runFor 31 (State.reset.deliver F) = .next t ∧
    runFor 31 (State.reset.deliver F') = .next t' := by
  obtain ⟨t, h⟩ := next_of_isSome (r := runFor 31 (State.reset.deliver zeroFrame)) (by decide +kernel)
  obtain ⟨t', h'⟩ := next_of_isSome
    (r := runFor 31 (State.reset.deliver (List.replicate 54 0 ++ List.replicate 10 0x55))) (by decide +kernel)
  exact ⟨_, _, t, t', by decide, by decide, by decide, by decide, h, h'⟩

theorem witness_ProgramCheckIsExact : ∃ (program : List Instr) (s : State) (F : List Byte),
    s.params.layoutRom = romOf program ∧ s.status ≠ .busy ∧ s.inbox = [] ∧ F.length = 64 ∧
    wellFormedProgram program = true :=
  ⟨[.slo .sig, .endRun], { State.reset with params := ⟨romOf [.slo .sig, .endRun], 0⟩ }, zeroFrame, rfl, by decide,
    by decide, by decide, by decide⟩

/-- The other side of the equivalence: a ROM whose program never slices the pair LDS needs. -/
theorem witness_ProgramCheckIsExact_illFormed : ∃ (program : List Instr) (s : State) (F : List Byte),
    s.params.layoutRom = romOf program ∧ s.status ≠ .busy ∧ s.inbox = [] ∧ F.length = 64 ∧
    wellFormedProgram program = false :=
  ⟨[.lds .ang false, .endRun], { State.reset with params := ⟨romOf [.lds .ang false, .endRun], 0⟩ }, zeroFrame, rfl,
    by decide, by decide, by decide, by decide⟩

/-- Index 12 of the canonical program on a 64-byte frame: CUR = 27 (R104) and the flags of the first twelve descriptors. -/
theorem witness_StepKeepsTheCanonicalProgress : ∃ s t : State, CanonicalProgress s ∧ s.status = .busy ∧
    s.dpc = 12 ∧ step s = .next t := by
  obtain ⟨t, h⟩ := next_of_isSome (r := step { decoding 27 12 with written := firstGroupWritten }) (by decide +kernel)
  exact ⟨_, t, ⟨by decide, by decide, by decide, fun _ => by decide, fun _ => by decide, fun _ => by decide⟩, by decide,
    by decide, h⟩

end Sys2Proof.Tests
end

/-! ## The machine's invariant (10_state.md R24 to R28, R36, R37)

The written flags are treated on their own: a flag is set only together with the flags of the sources its value was computed
from. On the rest of the state, an instruction that takes effect touches only clauses that say nothing of BUSY. -/

namespace Sys2Proof

theorem PerGroup.get_set_true (p : PerGroup Bool) (g h : Group) :
    (p.set g true).get h = (decide (h = g) || p.get h) := by
  by_cases he : h = g <;> simp [PerGroup.get_set, he]

theorem PerGroup.at2_set2_true (p : PerGroup (PerAxis Bool)) (g h : Group) (a b : Axis) :
    (p.set2 g a true).at2 h b = (decide (h = g ∧ b = a) || p.at2 h b) := by
  by_cases he : h = g ∧ b = a
  · simp [he]
  · simp only [PerGroup.at2_set2, he, if_false, decide_false, Bool.false_or]

end Sys2Proof

namespace Sys2Proof.Machine

/-- SCALE_W is set only where the sources of LDS hold a value, VEC_W only where those of CNV do (R37): the two clauses of
`Inv` on the flags. -/
structure WFlags.SourcesHeld (f : WFlags) : Prop where
  scale : ∀ g, f.scaleW.get g = true → f.scaleSources g = true
  vec : ∀ g a, f.vecW.at2 g a = true → f.convertSources g a = true

theorem WFlags.scaleSources_iff (f : WFlags) (g : Group) :
    f.scaleSources g = true ↔ f.mulbW.get g = true ∧ f.divbW.get g = true := by
  simp [scaleSources]

theorem WFlags.convertSources_iff (f : WFlags) (g : Group) (a : Axis) :
    f.convertSources g a = true ↔ f.axbW.at2 g a = true ∧ f.scaleW.get g = true := by
  simp [convertSources]

theorem WFlags.sourcesHeld_clear : WFlags.clear.SourcesHeld where
  scale g h := by simp [clear] at h
  vec g a h := by simp [clear, PerGroup.at2] at h

namespace WFlags.SourcesHeld

variable {f : WFlags}

theorem setOpaque (h : f.SourcesHeld) (o : OpaqueField) : (f.setOpaque o).SourcesHeld := by
  cases o
  · exact ⟨h.scale, h.vec⟩
  · exact ⟨h.scale, h.vec⟩
  · exact ⟨h.scale, h.vec⟩

theorem setMulb (h : f.SourcesHeld) (g : Group) : (f.setMulb g).SourcesHeld where
  scale k hk := by
    obtain ⟨hm, hd⟩ := (f.scaleSources_iff k).mp (h.scale k hk)
    simp [scaleSources_iff, WFlags.setMulb, PerGroup.get_set_true, hm, hd]
  vec := h.vec

theorem setDivb (h : f.SourcesHeld) (g : Group) : (f.setDivb g).SourcesHeld where
  scale k hk := by
    obtain ⟨hm, hd⟩ := (f.scaleSources_iff k).mp (h.scale k hk)
    simp [scaleSources_iff, WFlags.setDivb, PerGroup.get_set_true, hm, hd]
  vec := h.vec

theorem setAxb (h : f.SourcesHeld) (g : Group) (a : Axis) : (f.setAxb g a).SourcesHeld where
  scale := h.scale
  vec k b hk := by
    obtain ⟨hx, hs⟩ := (f.convertSources_iff k b).mp (h.vec k b hk)
    simp [convertSources_iff, WFlags.setAxb, PerGroup.at2_set2_true, hx, hs]

/-- LDS sets its flag only with its sources held. -/
theorem setScale (h : f.SourcesHeld) {g : Group} (hg : f.scaleSources g = true) : (f.setScale g).SourcesHeld where
  scale k hk := by
    simp only [WFlags.setScale, PerGroup.get_set_true, Bool.or_eq_true, decide_eq_true_eq] at hk
    obtain rfl | hk := hk
    · exact hg
    · exact h.scale k hk
  vec k b hk := by
    obtain ⟨hx, hs⟩ := (f.convertSources_iff k b).mp (h.vec k b hk)
    simp [convertSources_iff, WFlags.setScale, PerGroup.get_set_true, hx, hs]

/-- CNV sets its flag only with its sources held. -/
theorem setVec (h : f.SourcesHeld) {g : Group} {a : Axis} (hg : f.convertSources g a = true) :
    (f.setVec g a).SourcesHeld where
  scale := h.scale
  vec k b hk := by
    simp only [WFlags.setVec, PerGroup.at2_set2_true, Bool.or_eq_true, decide_eq_true_eq] at hk
    obtain ⟨rfl, rfl⟩ | hk := hk
    · exact hg
    · exact h.vec k b hk

end WFlags.SourcesHeld

/-! ROM_OVERRUN comes from index 31 only (R259). -/

theorem dpc_of_slice_romOverrun {w : Nat} {put : Bytes w → State → State} {s t : State}
    (h : slice w put s = .next t) (hput : ∀ L, (put L s).fcause = s.fcause) (hs : s.fcause = .none)
    (ht : t.fcause = .romOverrun) : s.dpc = 31 := by
  obtain ⟨_, rfl⟩ | ⟨_, hd, _⟩ | ⟨_, _, rfl⟩ := slice_cases h
  · simp at ht
  · exact hd
  · simp [hput, hs] at ht

theorem dpc_of_exec_romOverrun {i : Instr} {s t : State} (h : exec i s = .next t) (hs : s.fcause = .none)
    (ht : t.fcause = .romOverrun) : s.dpc = 31 := by
  cases i with
  | slo f => exact dpc_of_slice_romOverrun ((exec_slo f s).symm.trans h) (by simp) hs ht
  | slm g => exact dpc_of_slice_romOverrun ((exec_slm g s).symm.trans h) (by simp) hs ht
  | sld g => exact dpc_of_slice_romOverrun ((exec_sld g s).symm.trans h) (by simp) hs ht
  | sla g a w => exact dpc_of_slice_romOverrun ((exec_sla g a w s).symm.trans h) (by simp) hs ht
  | lds g r =>
    obtain ⟨_, rfl⟩ | ⟨_, hd, _⟩ | ⟨_, _, rfl⟩ := execLds_cases h
    · simp at ht
    · exact hd
    · simp [hs] at ht
  | cnv g a =>
    obtain ⟨_, rfl⟩ | ⟨_, hd, _⟩ | ⟨_, _, rfl⟩ := execCnv_cases h
    · simp at ht
    · exact hd
    · simp [hs] at ht
  | endRun =>
    obtain rfl := execEndRun_cases h
    simp [hs] at ht

/-! The invariant under each kind of move. -/

theorem State.deliver_len_eq_64 (s : State) (F : List Byte) : (s.deliver F).len = 64 ↔ F.length = 64 := by
  rw [← frameLength_eq_64]
  simp

namespace Inv

variable {s t : State}

theorem sourcesHeld (h : Inv s) : s.written.SourcesHeld where
  scale g hg := (s.written.scaleSources_iff g).mpr (h.scaleHasBytes g hg)
  vec g a hg := (s.written.convertSources_iff g a).mpr (h.vectorHasSources g a hg)

theorem fcause_of_busy (h : Inv s) (hb : s.status = .busy) : s.fcause = .none := by
  by_contra hc
  simpa [hb] using h.faultHasCause.mp hc

theorem position_of_busy (h : Inv s) (hb : s.status = .busy) : s.fdpc = 0 ∧ s.fcur = 0 :=
  h.noFaultNoPosition (by simp [hb])

/-- The invariant says nothing of the host's side of the state. -/
theorem withHost (h : Inv s) (inbox : List HostEvent) (answers : List Answer) (draws : Nat) :
    Inv { s with inbox := inbox, answers := answers, draws := draws } :=
  ⟨h.bufferCanonical, h.cursorInBuffer, h.faultHasCause, h.faultHasPosition, h.noFaultNoPosition, h.romOverrunAtEnd,
    h.decodesFullFrames, h.rejectsOtherFrames, h.idleHasNoFrame, h.nothingWithoutFrame, h.scaleHasBytes,
    h.vectorHasSources⟩

/-- An effect under BUSY: the data registers and `DPC` may change freely, `CUR` within the buffer, and the flags with
their sources. -/
theorem of_effect (h : Inv s) (hb : s.status = .busy)
    (hkeep : t.rb = s.rb ∧ t.len = s.len ∧ t.status = s.status ∧ t.fcause = s.fcause ∧ t.fdpc = s.fdpc ∧
      t.fcur = s.fcur)
    (hcur : t.cur.toNat ≤ 64) (hflags : t.written.SourcesHeld) : Inv t := by
  obtain ⟨hrb, hlen, hst, hfc, hfd, hfu⟩ := hkeep
  have hnone := h.fcause_of_busy hb
  rw [hb] at hst
  rw [hnone] at hfc
  exact
    { bufferCanonical := hrb ▸ h.bufferCanonical
      cursorInBuffer := hcur
      faultHasCause := by simp [hfc, hst]
      faultHasPosition := by simp [hst]
      noFaultNoPosition := fun _ => by simpa [hfd, hfu] using h.position_of_busy hb
      romOverrunAtEnd := by simp [hfc]
      decodesFullFrames := fun _ => hlen ▸ h.decodesFullFrames (.inl hb)
      rejectsOtherFrames := by simp [hst]
      idleHasNoFrame := by simp [hst]
      nothingWithoutFrame := by simp [hst]
      scaleHasBytes := fun g hg => (t.written.scaleSources_iff g).mp (hflags.scale g hg)
      vectorHasSources := fun g a hg => (t.written.convertSources_iff g a).mp (hflags.vec g a hg) }

/-- Fault entry under BUSY (R262). -/
theorem enterFault (h : Inv s) (hb : s.status = .busy) {c : Cause} (hc : c ≠ .none)
    (hrom : c = .romOverrun → s.dpc = 31) : Inv (s.enterFault c) where
  bufferCanonical := h.bufferCanonical
  cursorInBuffer := h.cursorInBuffer
  faultHasCause := by simp [hc]
  faultHasPosition := by simp
  noFaultNoPosition := by simp
  romOverrunAtEnd := by simpa using hrom
  decodesFullFrames := fun _ => h.decodesFullFrames (.inl hb)
  rejectsOtherFrames := by simp
  idleHasNoFrame := by simp
  nothingWithoutFrame := by simp
  scaleHasBytes := h.scaleHasBytes
  vectorHasSources := h.vectorHasSources

/-- END under BUSY (R208). -/
theorem endRun (h : Inv s) (hb : s.status = .busy) : Inv { s with status := .done } where
  bufferCanonical := h.bufferCanonical
  cursorInBuffer := h.cursorInBuffer
  faultHasCause := by simp [h.fcause_of_busy hb]
  faultHasPosition := by simp
  noFaultNoPosition := fun _ => h.position_of_busy hb
  romOverrunAtEnd := h.romOverrunAtEnd
  decodesFullFrames := fun _ => h.decodesFullFrames (.inl hb)
  rejectsOtherFrames := by simp
  idleHasNoFrame := by simp
  nothingWithoutFrame := by simp
  scaleHasBytes := h.scaleHasBytes
  vectorHasSources := h.vectorHasSources

/-- An accepted DELIVER (R200, R221): `LEN` tells the full frame from the others, as `STATUS` does. -/
theorem deliver (h : Inv s) (F : List Byte) : Inv (s.deliver F) where
  bufferCanonical := by
    by_cases hF : F.length = Config.reportLen
    · simpa [hF] using Memory.fill_wf Memory.blank_wf (a := 0) (F := F) (by omega)
    · simpa [hF] using h.bufferCanonical
  cursorInBuffer := by simp
  faultHasCause := by by_cases hF : F.length = 64 <;> simp [hF]
  faultHasPosition := by by_cases hF : F.length = 64 <;> simp [hF]
  noFaultNoPosition := by simp
  romOverrunAtEnd := by simp
  decodesFullFrames hst := by
    rw [State.deliver_len_eq_64]
    by_contra hF
    simp [hF] at hst
  rejectsOtherFrames hst := by
    rw [Ne, State.deliver_len_eq_64]
    intro hF
    simp [hF] at hst
  idleHasNoFrame := by by_cases hF : F.length = 64 <;> simp [hF]
  nothingWithoutFrame := by simp
  scaleHasBytes := by simp [WFlags.clear]
  vectorHasSources := by simp [WFlags.clear, PerGroup.at2]

/-- RESET, from any state (R280). -/
theorem resetBlock (s : State) : Inv s.resetBlock where
  bufferCanonical := reset_buffer_wf
  cursorInBuffer := by simp
  faultHasCause := by simp
  faultHasPosition := by simp
  noFaultNoPosition := by simp
  romOverrunAtEnd := by simp
  decodesFullFrames := by simp
  rejectsOtherFrames := by simp
  idleHasNoFrame := by simp
  nothingWithoutFrame := by simp
  scaleHasBytes := by simp [WFlags.clear]
  vectorHasSources := by simp [WFlags.clear, PerGroup.at2]

/-- The effect of a slice that fits: `u` is the state with the slice's own register written. -/
theorem of_slice {u : State} {w : Nat} (h : Inv s) (hb : s.status = .busy) (hw : s.cur.toNat + w ≤ 64)
    (hkeep : u.rb = s.rb ∧ u.len = s.len ∧ u.status = s.status ∧ u.fcause = s.fcause ∧ u.fdpc = s.fdpc ∧
      u.fcur = s.fcur ∧ u.cur = s.cur)
    (hflags : u.written.SourcesHeld) : Inv (u.moveCursor w).advance := by
  obtain ⟨hrb, hlen, hst, hfc, hfd, hfu, hcur⟩ := hkeep
  rw [← hcur] at hw
  have hmove : ((u.moveCursor w).advance).cur.toNat = u.cur.toNat + w := toNat_moveCursor hw
  exact h.of_effect hb (by simp [hrb, hlen, hst, hfc, hfd, hfu]) (by omega) (by simpa using hflags)

/-- Every instruction under BUSY. -/
theorem exec (h : Inv s) (hb : s.status = .busy) {i : Instr} (ht : exec i s = .next t) : Inv t := by
  have hf := h.sourcesHeld
  have hrom := dpc_of_exec_romOverrun ht (h.fcause_of_busy hb)
  obtain ⟨c, hc, rfl⟩ | ⟨-, rfl⟩ | ⟨-, he⟩ := exec_cases ht
  · exact h.enterFault hb hc (by simpa using hrom)
  · exact h.endRun hb
  obtain ⟨f, -, hw, rfl⟩ | ⟨g, -, hw, rfl⟩ | ⟨g, -, hw, rfl⟩ | ⟨g, a, w, -, hw, rfl⟩ | ⟨g, r, -, hsrc, rfl⟩ |
    ⟨g, a, -, hsrc, rfl⟩ := he
  · exact h.of_slice hb hw (by simp) (by simpa using hf.setOpaque f)
  · exact h.of_slice hb hw (by simp) (by simpa using hf.setMulb g)
  · exact h.of_slice hb hw (by simp) (by simpa using hf.setDivb g)
  · exact h.of_slice hb hw (by simp) (by simpa using hf.setAxb g a)
  · exact h.of_effect hb (by simp) (by simpa using h.cursorInBuffer) (by simpa using hf.setScale hsrc)
  · exact h.of_effect hb (by simp) (by simpa using h.cursorInBuffer) (by simpa using hf.setVec hsrc)

theorem sequencerTurn (h : Inv s) (ht : sequencerTurn s = .next t) : Inv t := by
  obtain ⟨-, rfl⟩ | ⟨hb, -, rfl⟩ | ⟨hb, i, -, he⟩ := sequencerTurn_cases ht
  · exact h
  · exact h.enterFault hb (by simp) (by simp)
  · exact h.exec hb he

end Inv

/-- `step_cases` with the moves that leave the turn to the sequencer as one case: they differ in the inbox alone. -/
theorem step_cases_of_turn {s t : State} (h : step s = .next t) :
    (∃ inbox, sequencerTurn { s with inbox := inbox } = .next t) ∨
    (∃ F rest, s.inbox = .deliver F :: rest ∧ s.status ≠ .busy ∧ t = { s with inbox := rest }.deliver F) ∨
    (∃ n rest, s.inbox = .read n :: rest ∧ t = { s with inbox := rest }.takeRead n) ∨
    (∃ rest, s.inbox = .reset :: rest ∧ t = { s with inbox := rest }.resetBlock) := by
  obtain ⟨-, ht⟩ | ⟨rest, -, ht⟩ | ⟨_, _, -, -, ht⟩ | hhost := step_cases h
  · exact .inl ⟨s.inbox, ht⟩
  · exact .inl ⟨rest, ht⟩
  · exact .inl ⟨s.inbox, ht⟩
  · exact .inr hhost

/-- Settles O34: the sequencer's turn and each host event keep the invariant. -/
theorem stepKeepsTheInvariant : Obligations.StepKeepsTheInvariant := by
  intro s t h ht
  obtain ⟨inbox, ht⟩ | ⟨F, rest, -, -, rfl⟩ | ⟨n, rest, -, rfl⟩ | ⟨rest, -, rfl⟩ := step_cases_of_turn ht
  · exact (h.withHost inbox s.answers s.draws).sequencerTurn ht
  · exact (h.withHost rest s.answers s.draws).deliver F
  · exact h.withHost rest _ _
  · exact Inv.resetBlock _

end Sys2Proof.Machine

/-! ## STATUS changes only as listed (10_state.md R26) -/

namespace Sys2Proof.Machine

theorem exec_status {i : Instr} {s t : State} (h : exec i s = .next t) :
    t.status = s.status ∨ (i = .endRun ∧ t.status = .done) ∨ (t.status = .fault ∧ t.fcause ≠ .none) := by
  obtain ⟨c, hc, rfl⟩ | ⟨hi, rfl⟩ | ⟨-, he⟩ := exec_cases h
  · exact .inr (.inr (by simpa using hc))
  · exact .inr (.inl ⟨hi, rfl⟩)
  · obtain ⟨_, -, -, rfl⟩ | ⟨_, -, -, rfl⟩ | ⟨_, -, -, rfl⟩ | ⟨_, _, _, -, -, rfl⟩ | ⟨_, _, -, -, rfl⟩ |
      ⟨_, _, -, -, rfl⟩ := he
    all_goals exact .inl (by simp)

theorem sequencerTurn_status {s t : State} (h : sequencerTurn s = .next t) :
    t.status = s.status ∨
    (s.status = .busy ∧ t.status = .done ∧ decode (fetch s) = .ok .endRun) ∨
    (s.status = .busy ∧ t.status = .fault ∧ t.fcause ≠ .none) := by
  obtain ⟨-, rfl⟩ | ⟨hb, -, rfl⟩ | ⟨hb, i, hdec, he⟩ := sequencerTurn_cases h
  · exact .inl rfl
  · exact .inr (.inr ⟨hb, by simp⟩)
  · obtain hst | ⟨rfl, hst⟩ | hst := exec_status he
    · exact .inl hst
    · exact .inr (.inl ⟨hb, hst, hdec⟩)
    · exact .inr (.inr ⟨hb, hst⟩)

/-- Settles O30: the sequencer's turn makes the transitions from BUSY, DELIVER and RESET the others. -/
theorem statusTransitions : Obligations.StatusTransitions := by
  intro s t h
  obtain ⟨inbox, ht⟩ | ⟨F, rest, hin, hb, rfl⟩ | ⟨n, rest, -, rfl⟩ | ⟨rest, hin, rfl⟩ := step_cases_of_turn h
  · obtain hst | hend | hfault := sequencerTurn_status ht
    · exact .inl hst
    · exact .inr (.inl hend)
    · exact .inr (.inr (.inl hfault))
  · exact .inr (.inr (.inr (.inl ⟨hb, F, rest, hin, by simp⟩)))
  · exact .inl rfl
  · exact .inr (.inr (.inr (.inr ⟨rfl, rest, hin⟩)))

end Sys2Proof.Machine

/-! ## The read port (10_state.md R40, 44_host.md R225, R226)

The number of each register, what `rd_data` shows of a register that holds a value, and the bytes of a packed field. -/

namespace Sys2Proof.Machine

theorem regOfNumber_mulb (g : Group) : regOfNumber (BitVec.ofNat 8 (0x20 + 8 * g.num.toNat)) = some (.mulb g) := by
  cases g <;> rfl

theorem regOfNumber_divb (g : Group) : regOfNumber (BitVec.ofNat 8 (0x21 + 8 * g.num.toNat)) = some (.divb g) := by
  cases g <;> rfl

theorem regOfNumber_axb (g : Group) (a : Axis) :
    regOfNumber (BitVec.ofNat 8 (0x22 + 8 * g.num.toNat + a.num.toNat)) = some (.axb g a) := by
  cases g <;> cases a <;> rfl

theorem regOfNumber_m (g : Group) : regOfNumber (BitVec.ofNat 8 (0x40 + 8 * g.num.toNat)) = some (.m g) := by
  cases g <;> rfl

theorem regOfNumber_d (g : Group) : regOfNumber (BitVec.ofNat 8 (0x41 + 8 * g.num.toNat)) = some (.d g) := by
  cases g <;> rfl

theorem regOfNumber_raw (g : Group) (a : Axis) :
    regOfNumber (BitVec.ofNat 8 (0x42 + 8 * g.num.toNat + a.num.toNat)) = some (.raw g a) := by
  cases g <;> cases a <;> rfl

theorem regOfNumber_vec (g : Group) (a : Axis) :
    regOfNumber (BitVec.ofNat 8 (0x45 + 8 * g.num.toNat + a.num.toNat)) = some (.vec g a) := by
  cases g <;> cases a <;> rfl

/-! The numbers that the map leaves out. -/

theorem fieldRegister_eq_none {g : Group} {k : Nat} (h : 5 ≤ k) : fieldRegister g k = none :=
  match k, h with
  | _ + 5, _ => rfl

theorem opaqueRegister_eq_none {k : Nat} (h : 3 ≤ k) : opaqueRegister k = none :=
  match k, h with
  | _ + 3, _ => rfl

/-- Each row of eight numbers that holds registers maps only its first ones; the other rows map none. -/
theorem regOfNumber_eq_none {n : Byte}
    (h : (0x07 < n.toNat ∧ n.toNat < 0x10) ∨ (0x12 < n.toNat ∧ n.toNat < 0x20) ∨
      (0x20 ≤ n.toNat ∧ n.toNat < 0x38 ∧ 5 ≤ n.toNat % 8) ∨ (0x38 ≤ n.toNat ∧ n.toNat < 0x40) ∨ 0x58 ≤ n.toNat) :
    regOfNumber n = none := by
  unfold regOfNumber
  split
  case h_1 => omega
  case h_2 => exact opaqueRegister_eq_none (by omega)
  case h_3 => exact fieldRegister_eq_none (by omega)
  case h_4 => exact fieldRegister_eq_none (by omega)
  case h_5 => exact fieldRegister_eq_none (by omega)
  case h_6 => omega
  case h_7 => omega
  case h_8 => omega
  case h_9 => rfl

/-! What a READ delivers (R226). -/

section ReadPort

variable {s : State} {n : Byte} {r : RegName}

theorem rdData_of_unmapped (hn : regOfNumber n = none) : s.rdData n = 0 := by
  simp [State.rdData, State.readPort, hn]

theorem lacksByte2_of_isStatus (hr : r.isStatus = true) : s.lacksByte2 r = false := by
  unfold State.lacksByte2
  split
  · contradiction
  · rfl

theorem rdData_of_isStatus (hn : regOfNumber n = some r) (hr : r.isStatus = true) : s.rdData n = s.packed r := by
  simp [State.rdData, State.readPort, State.readable, hn, hr, lacksByte2_of_isStatus hr]

theorem rdData_of_written (hn : regOfNumber n = some r) (hb : s.status ≠ .busy) (hw : s.written.ofReg r = true)
    (h2 : s.lacksByte2 r = false) : s.rdData n = s.packed r := by
  simp [State.rdData, State.readPort, State.readable, hn, hb, hw, h2]

/-- Of a 2-byte axis field bits 23:16 are drawn. -/
theorem rdData_of_lacksByte2 (hn : regOfNumber n = some r) (hb : s.status ≠ .busy) (hw : s.written.ofReg r = true)
    (h2 : s.lacksByte2 r = true) : s.rdData n = s.packed r ||| ((Config.freeRead s.draws &&& 0xFF) <<< 16) := by
  simp [State.rdData, State.readPort, State.readable, hn, hb, hw, h2]

end ReadPort

/-! The bytes of a packed field (R225). -/

theorem packBytes_lt (L : List Byte) : packBytes L < 2 ^ (8 * L.length) := by
  induction L with
  | nil => simp [packBytes]
  | cons b rest ih =>
    have hpow : 2 ^ (8 * (b :: rest).length) = 256 * 2 ^ (8 * rest.length) := by
      rw [List.length_cons, Nat.mul_succ, Nat.pow_add, Nat.mul_comm]
    have hb := b.isLt
    simp only [packBytes]
    omega

/-- Byte `k` of a packed field, whatever stands above the field. -/
theorem packBytes_digit (L : List Byte) (above k : Nat) (h : k < L.length) :
    (packBytes L + 2 ^ (8 * L.length) * above) / 2 ^ (8 * k) % 2 ^ 8 = L[k].toNat := by
  induction L generalizing k with
  | nil => simp at h
  | cons b rest ih =>
    have hb := b.isLt
    have hsplit : packBytes (b :: rest) + 2 ^ (8 * (b :: rest).length) * above =
        b.toNat + 2 ^ 8 * (packBytes rest + 2 ^ (8 * rest.length) * above) := by
      rw [packBytes, List.length_cons]
      ring
    rw [hsplit]
    cases k with
    | zero => simp only [Nat.mul_zero, Nat.pow_zero, Nat.div_one, List.getElem_cons_zero]; omega
    | succ k =>
      have hdiv : (b.toNat + 2 ^ 8 * (packBytes rest + 2 ^ (8 * rest.length) * above)) / 2 ^ 8 =
          packBytes rest + 2 ^ (8 * rest.length) * above := by omega
      rw [Nat.mul_succ, Nat.add_comm (8 * k), Nat.pow_add, ← Nat.div_div_eq_div_mul, hdiv, List.getElem_cons_succ]
      exact ih k _

theorem extractLsb'_ofNat_eq {x start len : Nat} {v : BitVec len} (hfit : start + len ≤ 64)
    (h : x / 2 ^ start % 2 ^ len = v.toNat) : (BitVec.ofNat 64 x).extractLsb' start len = v := by
  apply BitVec.eq_of_getLsbD_eq
  intro i hi
  have hbit : start + i < 64 := by omega
  rw [← BitVec.testBit_toNat v, ← h, Nat.testBit_mod_two_pow, Nat.testBit_div_two_pow, BitVec.getLsbD_extractLsb',
    BitVec.getLsbD_ofNat]
  simp only [hi, hbit, decide_true, Bool.true_and, Nat.add_comm]

theorem extractLsb'_packBytes {L : List Byte} (above : Nat) {k : Nat} (hlen : L.length ≤ 8) (h : k < L.length) :
    (BitVec.ofNat 64 (packBytes L + 2 ^ (8 * L.length) * above)).extractLsb' (8 * k) 8 = L[k] :=
  extractLsb'_ofNat_eq (by omega) (packBytes_digit L above k h)

theorem bytesOnPort_packBytes {L : List Byte} (hlen : L.length ≤ 8) :
    BytesOnPort (BitVec.ofNat 64 (packBytes L)) L := by
  constructor
  · intro k h
    simpa using extractLsb'_packBytes 0 hlen h
  · exact Nat.lt_of_le_of_lt (Nat.mod_le _ _) (packBytes_lt L)

theorem getLsbD_ones_eq_false {j : Nat} (h : 8 ≤ j) : (0xFF : Word64).getLsbD j = false :=
  Nat.testBit_lt_two_pow (Nat.lt_of_lt_of_le (by decide : 0xFF < 2 ^ 8) (Nat.pow_le_pow_right (by omega) h))

/-- A drawn byte 2 leaves the fields below and above it alone. -/
theorem extractLsb'_or_byte2 (v x : Word64) {start len : Nat} (h : start + len ≤ 16 ∨ 24 ≤ start) :
    (v ||| ((x &&& 0xFF) <<< 16)).extractLsb' start len = v.extractLsb' start len := by
  apply BitVec.eq_of_getLsbD_eq
  intro i hi
  have hdrawn : ((x &&& 0xFF) <<< 16).getLsbD (start + i) = false := by
    rw [BitVec.getLsbD_shiftLeft, BitVec.getLsbD_and]
    obtain hlow | hhigh := h
    · have hbit : start + i < 16 := by omega
      simp [hbit]
    · have hmask : (0xFF : Word64).getLsbD (start + i - 16) = false :=
        getLsbD_ones_eq_false (by omega)
      simp only [hmask, Bool.and_false]
  rw [BitVec.getLsbD_extractLsb', BitVec.getLsbD_extractLsb', BitVec.getLsbD_or, hdrawn, Bool.or_false]

/-! An axis field on the port (R225): its bytes at the bottom and AXN at bits 33:32. -/

theorem AxisBytes.length_bytes (f : AxisBytes) : f.bytes.length = f.axn := by
  cases f <;> simp [bytes, axn]

theorem AxisBytes.axn_eq (f : AxisBytes) : f.axn = 2 ∨ f.axn = 3 := by
  cases f <;> simp [axn]

theorem packed_axb_byte (s : State) (g : Group) (a : Axis) {k : Nat} (h : k < (s.axb.at2 g a).bytes.length) :
    (s.packed (.axb g a)).extractLsb' (8 * k) 8 = (s.axb.at2 g a).bytes[k] := by
  generalize hf : s.axb.at2 g a = f at h ⊢
  have hlen := f.length_bytes
  have hsplit : 2 ^ 32 * f.axn = 2 ^ (8 * f.bytes.length) * (2 ^ (32 - 8 * f.bytes.length) * f.axn) := by
    rw [← Nat.mul_assoc, ← Nat.pow_add, Nat.add_sub_cancel' (by have := f.axn_eq; omega)]
  rw [State.packed, hf, hsplit]
  exact extractLsb'_packBytes _ (by have := f.axn_eq; omega) h

theorem packed_axb_axn (s : State) (g : Group) (a : Axis) :
    ((s.packed (.axb g a)).extractLsb' 32 2).toNat = (s.axb.at2 g a).axn := by
  generalize hf : s.axb.at2 g a = f
  have hbytes : packBytes f.bytes < 2 ^ 32 :=
    Nat.lt_of_lt_of_le (packBytes_lt f.bytes) (Nat.pow_le_pow_right (by omega)
      (by have := f.length_bytes; have := f.axn_eq; omega))
  have haxn := f.axn_eq
  rw [State.packed, hf, BitVec.extractLsb'_toNat, BitVec.toNat_ofNat, Nat.shiftRight_eq_div_pow]
  omega

/-- A READ of an axis field, of either width, agrees with the packed value off bits 23:16 of a 2-byte field. -/
theorem extractLsb'_rdData_axb {s : State} {g : Group} {a : Axis} {n : Byte} (hn : regOfNumber n = some (.axb g a))
    (hb : s.status ≠ .busy) (hw : s.written.axbW.at2 g a = true) {start len : Nat}
    (h : start + len ≤ 8 * (s.axb.at2 g a).axn ∨ 24 ≤ start) :
    (s.rdData n).extractLsb' start len = (s.packed (.axb g a)).extractLsb' start len := by
  by_cases h2 : (s.axb.at2 g a).axn = 2
  · rw [rdData_of_lacksByte2 hn hb hw (by simp [State.lacksByte2, h2]), extractLsb'_or_byte2 _ _ (by omega)]
  · rw [rdData_of_written hn hb hw (by simp [State.lacksByte2, h2])]

/-- Settles O40: each register is packed at its number, and a drawn byte 2 stands clear of what is claimed of AXB. -/
theorem byteRegistersRead : Obligations.ByteRegistersRead := by
  intro s hb
  refine ⟨fun hw => ?_, fun hw => ?_, fun hw => ?_, fun g => ⟨fun hw => ?_, fun hw => ?_, fun a hw => ⟨?_, ?_⟩⟩⟩
  · rw [rdData_of_written (r := .sig) rfl hb hw rfl]
    exact bytesOnPort_packBytes (by simp)
  · rw [rdData_of_written (r := .temp) rfl hb hw rfl]
    exact bytesOnPort_packBytes (by simp)
  · rw [rdData_of_written (r := .ts) rfl hb hw rfl]
    exact bytesOnPort_packBytes (by simp)
  · rw [rdData_of_written (regOfNumber_mulb g) hb hw rfl]
    exact bytesOnPort_packBytes (by simp)
  · rw [rdData_of_written (regOfNumber_divb g) hb hw rfl]
    exact bytesOnPort_packBytes (by simp)
  · intro k hk
    have hlen := (s.axb.at2 g a).length_bytes
    exact (extractLsb'_rdData_axb (regOfNumber_axb g a) hb hw (by omega)).trans (packed_axb_byte s g a hk)
  · rw [extractLsb'_rdData_axb (regOfNumber_axb g a) hb hw (by omega)]
    exact packed_axb_axn s g a

/-- Settles O41: `rd_data` is the register extended to 64 bits. -/
theorem numberRegistersRead : Obligations.NumberRegistersRead := by
  intro s g hb
  refine ⟨fun hw => ⟨?_, ?_⟩, fun a hw => ⟨?_, ?_⟩⟩
  · rw [rdData_of_written (regOfNumber_m g) hb hw rfl]
    exact BitVec.toInt_signExtend_of_le (by omega)
  · rw [rdData_of_written (regOfNumber_d g) hb hw rfl]
    exact BitVec.toInt_signExtend_of_le (by omega)
  · rw [rdData_of_written (regOfNumber_raw g a) hb hw rfl]
    exact BitVec.toInt_signExtend_of_le (by omega)
  · rw [rdData_of_written (regOfNumber_vec g a) hb hw rfl]
    rfl

/-- Settles O39: a status register is read in every state, extended by zeros. -/
theorem statusRegistersRead : Obligations.StatusRegistersRead := by
  intro s
  refine ⟨?_, ?_, ?_, ?_, ?_, ?_, ?_, ?_⟩
  · rw [rdData_of_isStatus (r := .status) rfl rfl]
    cases hst : s.status <;> simp [State.packed, hst, Status.code]
  · rw [rdData_of_isStatus (r := .len) rfl rfl]
    exact BitVec.toNat_setWidth_of_le (by omega)
  · rw [rdData_of_isStatus (r := .fcause) rfl rfl]
    cases hfc : s.fcause <;> simp [State.packed, hfc, Cause.code]
  · rw [rdData_of_isStatus (r := .fdpc) rfl rfl]
    exact BitVec.toNat_setWidth_of_le (by omega)
  · rw [rdData_of_isStatus (r := .fcur) rfl rfl]
    exact BitVec.toNat_setWidth_of_le (by omega)
  · rw [rdData_of_isStatus (r := .cur) rfl rfl]
    exact BitVec.toNat_setWidth_of_le (by omega)
  · rw [rdData_of_isStatus (r := .dpc) rfl rfl]
    exact BitVec.toNat_setWidth_of_le (by omega)
  · rw [rdData_of_isStatus (r := .wflags) rfl rfl]
    exact BitVec.toNat_setWidth_of_le (by omega)

/-- Settles O42: the number names no register. -/
theorem unmappedNumbersReadZero : Obligations.UnmappedNumbersReadZero := by
  intro s n h
  exact rdData_of_unmapped (regOfNumber_eq_none h)

end Sys2Proof.Machine

/-! ## The bits of WFLAGS (10_state.md R36)

Each block of flags owns an interval of bit positions: inside it a bit is its flag, outside it the block is 0. -/

namespace Sys2Proof

@[simp] theorem Group.num_toNat_eq : Group.ang.num.toNat = 0 ∧ Group.acc.num.toNat = 1 ∧ Group.mag.num.toNat = 2 :=
  ⟨rfl, rfl, rfl⟩

@[simp] theorem Axis.num_toNat_eq : Axis.x.num.toNat = 0 ∧ Axis.y.num.toNat = 1 ∧ Axis.z.num.toNat = 2 :=
  ⟨rfl, rfl, rfl⟩

theorem Group.num_toNat_lt (g : Group) : g.num.toNat < 3 := by
  cases g <;> decide

theorem Axis.num_toNat_lt (a : Axis) : a.num.toNat < 3 := by
  cases a <;> decide

end Sys2Proof

namespace Sys2Proof.Machine

theorem getLsbD_flagBit_same {position : Nat} (flag : Bool) (h : position < 32) :
    (flagBit position flag).getLsbD position = flag := by
  cases flag
  · exact BitVec.getLsbD_zero
  · rw [flagBit, if_pos rfl, BitVec.getLsbD_ofNat, Nat.testBit_two_pow_self, decide_eq_true h, Bool.and_self]

theorem getLsbD_flagBit_other {position i : Nat} (flag : Bool) (h : position ≠ i) :
    (flagBit position flag).getLsbD i = false := by
  cases flag
  · exact BitVec.getLsbD_zero
  · rw [flagBit, if_pos rfl, BitVec.getLsbD_ofNat, Nat.testBit_two_pow_of_ne h, Bool.and_false]

section Blocks

variable {first i : Nat}

theorem getLsbD_groupBits_outside (p : PerGroup Bool) (h : i < first ∨ first + 3 ≤ i) :
    (groupBits first p).getLsbD i = false := by
  simp (disch := omega) only [groupBits, BitVec.getLsbD_or, getLsbD_flagBit_other, Bool.or_self]

theorem getLsbD_axisBits_outside (p : PerAxis Bool) (h : i < first ∨ first + 3 ≤ i) :
    (axisBits first p).getLsbD i = false := by
  simp (disch := omega) only [axisBits, BitVec.getLsbD_or, getLsbD_flagBit_other, Bool.or_self]

theorem getLsbD_groupAxisBits_outside (p : PerGroup (PerAxis Bool)) (h : i < first ∨ first + 9 ≤ i) :
    (groupAxisBits first p).getLsbD i = false := by
  simp (disch := omega) only [groupAxisBits, BitVec.getLsbD_or, getLsbD_axisBits_outside, Bool.or_self]

theorem getLsbD_groupBits (p : PerGroup Bool) (g : Group) (h : first + 2 < 32) :
    (groupBits first p).getLsbD (first + g.num.toNat) = p.get g := by
  cases g <;>
    simp (disch := omega) only [groupBits, BitVec.getLsbD_or, Group.num_toNat_eq, Nat.add_zero, getLsbD_flagBit_same,
      getLsbD_flagBit_other, Bool.or_false, Bool.false_or, PerGroup.get]

theorem getLsbD_axisBits (p : PerAxis Bool) (a : Axis) (h : first + 2 < 32) :
    (axisBits first p).getLsbD (first + a.num.toNat) = p.get a := by
  cases a <;>
    simp (disch := omega) only [axisBits, BitVec.getLsbD_or, Axis.num_toNat_eq, Nat.add_zero, getLsbD_flagBit_same,
      getLsbD_flagBit_other, Bool.or_false, Bool.false_or, PerAxis.get]

theorem getLsbD_groupAxisBits (p : PerGroup (PerAxis Bool)) (g : Group) (a : Axis) (h : first + 8 < 32) :
    (groupAxisBits first p).getLsbD (first + 3 * g.num.toNat + a.num.toNat) = p.at2 g a := by
  have ha := a.num_toNat_lt
  cases g <;>
    simp (disch := omega) only [groupAxisBits, BitVec.getLsbD_or, Group.num_toNat_eq, Nat.mul_zero, Nat.add_zero,
      Nat.mul_one, Nat.reduceMul, getLsbD_axisBits, getLsbD_axisBits_outside, Bool.or_false, Bool.false_or, PerGroup.at2,
      PerGroup.get]

end Blocks

/-- Settles O43: at each position one block of WFLAGS shows its flag and the others, which lie apart, show 0. -/
theorem flagBitsOfWflags : Obligations.FlagBitsOfWflags := by
  intro f
  simp only [WFlags.word, BitVec.getLsbD_or]
  refine ⟨?_, ?_, ?_, fun g => have hg := g.num_toNat_lt; ⟨?_, ?_, ?_, fun a => have ha := a.num_toNat_lt; ⟨?_, ?_⟩⟩,
    ?_, ?_⟩
  all_goals
    simp (disch := omega) only [getLsbD_flagBit_same, getLsbD_flagBit_other, getLsbD_groupBits,
      getLsbD_groupBits_outside, getLsbD_groupAxisBits, getLsbD_groupAxisBits_outside, Bool.or_false, Bool.false_or]

end Sys2Proof.Machine

/-! ## What a step leaves of the memories, and where it moves CUR and DPC (20_memory.md R61, R75, 40_slice.md R130) -/

namespace Sys2Proof.Machine

/-- No instruction writes the ROM, NAN_BITS, the report buffer or the host's inbox. -/
theorem exec_keeps {i : Instr} {s t : State} (h : exec i s = .next t) :
    t.params = s.params ∧ t.rb = s.rb ∧ t.inbox = s.inbox := by
  obtain ⟨c, -, rfl⟩ | ⟨-, rfl⟩ | ⟨-, he⟩ := exec_cases h
  · simp
  · exact ⟨rfl, rfl, rfl⟩
  · obtain ⟨_, -, -, rfl⟩ | ⟨_, -, -, rfl⟩ | ⟨_, -, -, rfl⟩ | ⟨_, _, _, -, -, rfl⟩ | ⟨_, _, -, -, rfl⟩ |
      ⟨_, _, -, -, rfl⟩ := he
    all_goals simp

theorem sequencerTurn_keeps {s t : State} (h : sequencerTurn s = .next t) :
    t.params = s.params ∧ t.rb = s.rb ∧ t.inbox = s.inbox := by
  obtain ⟨-, rfl⟩ | ⟨-, -, rfl⟩ | ⟨-, i, -, he⟩ := sequencerTurn_cases h
  · exact ⟨rfl, rfl, rfl⟩
  · simp
  · exact exec_keeps he

/-- Settles O32: the sequencer's turn and each host event keep the parameters. -/
theorem parametersAreNeverWritten : Obligations.ParametersAreNeverWritten := by
  intro s t h
  obtain ⟨inbox, ht⟩ | ⟨F, rest, -, -, rfl⟩ | ⟨n, rest, -, rfl⟩ | ⟨rest, -, rfl⟩ := step_cases_of_turn h
  · exact (sequencerTurn_keeps ht).1
  · simp
  · simp
  · simp

/-- Where a slice that fits leaves the cursor and `DPC`: `u` is the state with the slice's own register written. -/
theorem slice_position {s u : State} {w : Nat} (hu : u.cur = s.cur ∧ u.dpc = s.dpc) (hw : s.cur.toNat + w ≤ 64)
    (hd : s.dpc ≠ 31) :
    (u.moveCursor w).advance.cur.toNat = s.cur.toNat + w ∧ (u.moveCursor w).advance.dpc.toNat = s.dpc.toNat + 1 := by
  obtain ⟨hcur, hdpc⟩ := hu
  rw [← hcur] at hw ⊢
  rw [← hdpc] at hd ⊢
  exact ⟨toNat_moveCursor hw, toNat_advance (s := u.moveCursor w) hd⟩

/-- An instruction takes effect and moves CUR by its slice width and DPC by one, or the run is over where it stands. -/
theorem exec_position {i : Instr} {s t : State} (h : exec i s = .next t) :
    (t.status ≠ .busy ∧ t.cur = s.cur ∧ t.dpc = s.dpc) ∨
    (t.cur.toNat = s.cur.toNat + i.sliceWidth ∧ t.dpc.toNat = s.dpc.toNat + 1) := by
  obtain ⟨c, -, rfl⟩ | ⟨-, rfl⟩ | ⟨hd, he⟩ := exec_cases h
  · exact .inl (by simp)
  · exact .inl (by simp)
  · right
    obtain ⟨f, rfl, hw, rfl⟩ | ⟨g, rfl, hw, rfl⟩ | ⟨g, rfl, hw, rfl⟩ | ⟨g, a, w, rfl, hw, rfl⟩ | ⟨g, r, rfl, -, rfl⟩ |
      ⟨g, a, rfl, -, rfl⟩ := he
    · exact slice_position (by simp) hw hd
    · exact slice_position (by simp) hw hd
    · exact slice_position (by simp) hw hd
    · exact slice_position (by simp) hw hd
    · exact ⟨rfl, toNat_advance (s := s.putScale g _ _) hd⟩
    · exact ⟨rfl, toNat_advance (s := s.putVec g a _ _) hd⟩

theorem sequencerTurn_position {s t : State} (h : sequencerTurn s = .next t) :
    s.cur.toNat ≤ t.cur.toNat ∧ (t.dpc.toNat = s.dpc.toNat ∨ t.dpc.toNat = s.dpc.toNat + 1) := by
  obtain ⟨-, rfl⟩ | ⟨-, -, rfl⟩ | ⟨-, i, -, he⟩ := sequencerTurn_cases h
  · simp
  · simp
  · obtain ⟨-, hcur, hdpc⟩ | ⟨hcur, hdpc⟩ := exec_position he
    · simp [hcur, hdpc]
    · simp [hcur, hdpc]

/-- Settles O31: what is left of a step is the sequencer's turn or a READ. -/
theorem bufferAndCursorUnderTheSequencer : Obligations.BufferAndCursorUnderTheSequencer := by
  intro s t hdeliver hreset h
  obtain ⟨inbox, ht⟩ | ⟨F, rest, hin, hb, -⟩ | ⟨n, rest, -, rfl⟩ | ⟨rest, hin, -⟩ := step_cases_of_turn h
  · obtain ⟨-, hrb, -⟩ := sequencerTurn_keeps ht
    have hposition := sequencerTurn_position ht
    exact ⟨fun a => by rw [hrb], hposition⟩
  · exact absurd (hdeliver F rest hin) hb
  · simp
  · exact absurd hin (hreset rest)

end Sys2Proof.Machine

/-! ## A run over another buffer (20_memory.md R68, 40_slice.md R130)

An instruction reads only the bytes it slices. So over a buffer that agrees there it does the same, and the
canonical program slices the bytes 0 to 53. -/

namespace Sys2Proof.Machine

/-- The state over another report buffer. -/
def State.withBuffer (s : State) (mem : Memory) : State :=
  { s with rb := mem }

/-- The host has no register that shows the buffer. -/
theorem sameVisible_withBuffer (s : State) (mem : Memory) : SameVisible s (s.withBuffer mem) where
  status := rfl
  len := rfl
  fcause := rfl
  fdpc := rfl
  fcur := rfl
  cur := rfl
  dpc := rfl
  written := rfl
  sig _ := rfl
  temp _ := rfl
  ts _ := rfl
  mulb _ _ := rfl
  divb _ _ := rfl
  axb _ _ _ := rfl
  scale _ _ := ⟨rfl, rfl⟩
  vec _ _ _ := ⟨rfl, rfl⟩

theorem memRead_congr {mem mem' : Memory} {addr n : Nat} (h : ∀ k < n, mem'.read (addr + k) = mem.read (addr + k)) :
    memRead mem' addr n = memRead mem addr n := by
  ext k hk
  simp [h k hk]

section Instructions

variable {s t after : State} {mem : Memory}

theorem raiseFault_withBuffer {c : Cause} (h : raiseFault c s = .next t) :
    raiseFault c (s.withBuffer mem) = .next (t.withBuffer mem) := by
  obtain rfl : s.enterFault c = t := Host.Outcome.next.inj h
  rfl

theorem complete_withBuffer (h : complete s after = .next t) :
    complete (s.withBuffer mem) (after.withBuffer mem) = .next (t.withBuffer mem) := by
  obtain ⟨hd, rfl⟩ | ⟨hd, rfl⟩ := complete_cases h
  · exact complete_of_eq hd
  · exact complete_of_ne hd

theorem slice_withBuffer {w : Nat} {put : Bytes w → State → State}
    (hput : ∀ L, put L (s.withBuffer mem) = (put L s).withBuffer mem)
    (hmem : ∀ k < w, mem.read (s.cur.toNat + k) = s.rb.read (s.cur.toNat + k)) (h : slice w put s = .next t) :
    slice w put (s.withBuffer mem) = .next (t.withBuffer mem) := by
  unfold slice at h ⊢
  have hread : memRead (s.withBuffer mem).rb (s.withBuffer mem).cur.toNat w = memRead s.rb s.cur.toNat w :=
    memRead_congr hmem
  rw [hread, hput]
  by_cases hw : s.cur.toNat + w > Config.reportLen
  · rw [if_pos hw] at h
    exact (if_pos hw).trans (raiseFault_withBuffer h)
  · rw [if_neg hw] at h
    exact (if_neg hw).trans (complete_withBuffer h)

/-- An instruction depends on the bytes it slices and on no others of the buffer. -/
theorem exec_withBuffer {i : Instr}
    (hmem : ∀ k < i.sliceWidth, mem.read (s.cur.toNat + k) = s.rb.read (s.cur.toNat + k)) (h : exec i s = .next t) :
    exec i (s.withBuffer mem) = .next (t.withBuffer mem) := by
  cases i with
  | slo f =>
    rw [exec_slo] at h ⊢
    exact slice_withBuffer (fun _ => by cases f <;> rfl) hmem h
  | slm g =>
    rw [exec_slm] at h ⊢
    exact slice_withBuffer (fun _ => rfl) hmem h
  | sld g =>
    rw [exec_sld] at h ⊢
    exact slice_withBuffer (fun _ => rfl) hmem h
  | sla g a w =>
    rw [exec_sla] at h ⊢
    exact slice_withBuffer (fun _ => rfl) hmem h
  | lds g r =>
    by_cases hf : s.written.scaleSources g = true
    · exact (if_pos hf).trans (complete_withBuffer ((if_pos hf).symm.trans h))
    · exact (if_neg hf).trans (raiseFault_withBuffer ((if_neg hf).symm.trans h))
  | cnv g a =>
    by_cases hf : s.written.convertSources g a = true
    · exact (if_pos hf).trans (complete_withBuffer ((if_pos hf).symm.trans h))
    · exact (if_neg hf).trans (raiseFault_withBuffer ((if_neg hf).symm.trans h))
  | endRun =>
    obtain rfl := execEndRun_cases h
    rfl

end Instructions

section Turn

variable {s t : State}

theorem sequencerTurn_of_not_busy (hb : s.status ≠ .busy) : sequencerTurn s = .next s := by
  simp [sequencerTurn, State.hasStep, hb]

theorem sequencerTurn_of_busy (hb : s.status = .busy) : sequencerTurn s = sequencerStep s := by
  simp [sequencerTurn, State.hasStep, hb]

theorem sequencerStep_of_error {e : Illegal} (hdec : decode (fetch s) = .error e) :
    sequencerStep s = raiseFault .illegalDescriptor s := by
  simp [sequencerStep, hdec]

theorem sequencerStep_of_ok {i : Instr} (hdec : decode (fetch s) = .ok i) : sequencerStep s = exec i s := by
  simp [sequencerStep, hdec]

/-- A host with nothing to do leaves the step to the sequencer. -/
theorem step_of_inbox_nil (hin : s.inbox = []) : step s = sequencerTurn s := by
  simp [step, turn, hin]

theorem sequencerTurn_withBuffer {mem : Memory}
    (hmem : s.status = .busy → ∀ i, decode (fetch s) = .ok i →
      ∀ k < i.sliceWidth, mem.read (s.cur.toNat + k) = s.rb.read (s.cur.toNat + k))
    (h : sequencerTurn s = .next t) : sequencerTurn (s.withBuffer mem) = .next (t.withBuffer mem) := by
  obtain ⟨hb, rfl⟩ | ⟨hb, ⟨e, hdec⟩, rfl⟩ | ⟨hb, i, hdec, he⟩ := sequencerTurn_cases h
  · exact sequencerTurn_of_not_busy hb
  · rw [sequencerTurn_of_busy (s := s.withBuffer mem) hb, sequencerStep_of_error (s := s.withBuffer mem) hdec]
    rfl
  · rw [sequencerTurn_of_busy (s := s.withBuffer mem) hb, sequencerStep_of_ok (s := s.withBuffer mem) hdec]
    exact exec_withBuffer (hmem hb i hdec) he

/-- A run of one step more: its first step and the run after it. -/
theorem step_of_runFor_succ {n : Nat} (h : runFor (n + 1) s = .next t) :
    ∃ u, step s = .next u ∧ runFor n u = .next t := by
  cases hs : step s with
  | next u => exact ⟨u, rfl, (runFor_succ hs).symm.trans h⟩
  | fault r => cases r
  | refused r =>
    have hs' : Sys2Proof.core.step s = .refused r := hs
    simp [runFor, Host.Core.run, hs'] at h

end Turn

/-! The bytes the canonical program slices (R104, R130). -/

theorem slicedBy_append (p q : List Instr) : slicedBy (p ++ q) = slicedBy p + slicedBy q := by
  simp [slicedBy]

theorem slicedBy_take_succ {p : List Instr} {k : Nat} {i : Instr} (h : p[k]? = some i) :
    slicedBy (p.take (k + 1)) = slicedBy (p.take k) + i.sliceWidth := by
  rw [List.take_add_one, h, slicedBy_append]
  rfl

theorem slicedBy_take_le (p : List Instr) (k : Nat) : slicedBy (p.take k) ≤ slicedBy p := by
  have hsplit := slicedBy_append (p.take k) (p.drop k)
  rw [List.take_append_drop] at hsplit
  omega

/-- The canonical ROM holds the descriptors of REPORT and one illegal word (R104, R110). -/
theorem decode_canonicalRom (k : Fin 32) : (decode Config.canonicalRom[k]).toOption = expandReport[k.val]? := by
  revert k
  decide

theorem slicedBy_expandReport : slicedBy expandReport = Config.usedLen := by
  decide

/-- The canonical ROM, a host with nothing to do, and in BUSY the cursor where the first DPC descriptors leave it. -/
structure CanonicalCursor (s : State) : Prop where
  rom : s.params.layoutRom = Config.canonicalRom
  quiet : s.inbox = []
  cursor : s.status = .busy → s.cur.toNat = slicedBy (expandReport.take s.dpc.toNat)

theorem expandReport_of_decode {s : State} (hrom : s.params.layoutRom = Config.canonicalRom) {i : Instr}
    (hdec : decode (fetch s) = .ok i) : expandReport[s.dpc.toNat]? = some i := by
  have hfetch : fetch s = Config.canonicalRom[s.dpc.toFin] := by simp [fetch, hrom]
  have hrow := decode_canonicalRom s.dpc.toFin
  rw [← hfetch, hdec] at hrow
  exact hrow.symm

namespace CanonicalCursor

variable {s t : State}

/-- The descriptor the sequencer executes ends its slice within the used bytes. -/
theorem slice_le_usedLen (h : CanonicalCursor s) (hb : s.status = .busy) {i : Instr} (hdec : decode (fetch s) = .ok i) :
    s.cur.toNat + i.sliceWidth ≤ Config.usedLen := by
  rw [h.cursor hb, ← slicedBy_take_succ (expandReport_of_decode h.rom hdec), ← slicedBy_expandReport]
  exact slicedBy_take_le _ _

theorem sequencerTurn (h : CanonicalCursor s) (ht : sequencerTurn s = .next t) : CanonicalCursor t := by
  obtain ⟨hparams, -, hin⟩ := sequencerTurn_keeps ht
  refine ⟨by rw [hparams, h.rom], by rw [hin, h.quiet], fun hbt => ?_⟩
  obtain ⟨-, rfl⟩ | ⟨-, -, rfl⟩ | ⟨hb, i, hdec, he⟩ := sequencerTurn_cases ht
  · exact h.cursor hbt
  · simp at hbt
  · obtain ⟨hover, -, -⟩ | ⟨hcur, hdpc⟩ := exec_position he
    · exact absurd hbt hover
    · rw [hcur, hdpc, h.cursor hb, slicedBy_take_succ (expandReport_of_decode h.rom hdec)]

/-- Over a buffer with the same used bytes the run is the same. -/
theorem runFor_withBuffer {mem : Memory} {n : Nat} (h : CanonicalCursor s)
    (hmem : ∀ a < Config.usedLen, mem.read a = s.rb.read a) (hrun : runFor n s = .next t) :
    runFor n (s.withBuffer mem) = .next (t.withBuffer mem) := by
  induction n generalizing s with
  | zero =>
    obtain rfl : s = t := Host.Outcome.next.inj hrun
    rfl
  | succ n ih =>
    obtain ⟨u, hstep, hrest⟩ := step_of_runFor_succ hrun
    rw [step_of_inbox_nil h.quiet] at hstep
    obtain ⟨-, hrb, -⟩ := sequencerTurn_keeps hstep
    have hstep' : step (s.withBuffer mem) = .next (u.withBuffer mem) := by
      rw [step_of_inbox_nil (s := s.withBuffer mem) h.quiet]
      refine sequencerTurn_withBuffer (fun hb i hdec k hk => hmem _ ?_) hstep
      have := h.slice_le_usedLen hb hdec
      omega
    rw [runFor_succ hstep']
    exact ih (h.sequencerTurn hstep) (by simpa only [hrb] using hmem) hrest

end CanonicalCursor

theorem CanonicalCursor.deliver {s : State} (hrom : s.params.layoutRom = Config.canonicalRom) (hin : s.inbox = [])
    (F : List Byte) : CanonicalCursor (s.deliver F) where
  rom := by simpa using hrom
  quiet := by simpa using hin
  cursor := by simp [slicedBy]

theorem gate_withBuffer (s : State) (mem : Memory) : (s.withBuffer mem).gate = s.gate.withBuffer mem := by
  unfold State.gate
  rw [apply_ite (State.withBuffer · mem)]
  rfl

/-- Frames of one length leave states that differ in the buffer alone. -/
theorem deliver_eq_withBuffer (s : State) {F F' : List Byte} (hlen : F'.length = F.length) :
    s.deliver F' = (s.deliver F).withBuffer (s.deliver F').rb := by
  have hport : frameLength F' = frameLength F := by rw [frameLength, hlen, frameLength]
  have htake : s.takeFrame F' = (s.takeFrame F).withBuffer (s.takeFrame F').rb := by
    simp only [State.takeFrame, State.withBuffer, hport]
  have hrb : (s.deliver F').rb = (s.takeFrame F').rb := by
    simp only [State.deliver, State.gate_keeps]
  rw [hrb, State.deliver, htake, gate_withBuffer]
  rfl

theorem read_deliver (s : State) {F : List Byte} (hlen : F.length = 64) {a : Nat} (ha : a < 64) :
    (s.deliver F).rb.read a = F.getD a 0 := by
  have hfull : F.length = Config.reportLen := hlen
  have hfits : 0 + F.length ≤ Config.reportLen := by omega
  obtain ⟨-, -, -, -, -, -, -, hrb⟩ := s.deliver_writes F
  rw [hrb, if_pos hfull, Memory.read_fill Memory.blank_wf hfits, if_pos (by omega), Nat.sub_zero]

/-- Settles O58: the second run is the first one over another buffer, which the host does not see. -/
theorem trailingBytesAreUnused : Obligations.TrailingBytesAreUnused := by
  intro s t t' F F' hrom _ hin hF hF' htake hrun hrun'
  have hused : ∀ a < Config.usedLen, (s.deliver F').rb.read a = (s.deliver F).rb.read a := by
    intro a ha
    have ha : a < 54 := ha
    rw [read_deliver s hF (by omega), read_deliver s hF' (by omega), List.getD_eq_getElem?_getD,
      List.getD_eq_getElem?_getD, ← List.getElem?_take_of_lt ha, ← htake, List.getElem?_take_of_lt ha]
  have hother := (CanonicalCursor.deliver hrom hin F).runFor_withBuffer hused hrun
  rw [← deliver_eq_withBuffer s (hF'.trans hF.symm), hrun'] at hother
  obtain rfl := Host.Outcome.next.inj hother
  exact sameVisible_withBuffer t _

end Sys2Proof.Machine

/-! ## Decoding and encoding (30_encoding.md R86, R88, R90)

The decoder takes a word apart into its four fields and reads each operand from its number, and a word is its four fields
put together again. So whatever is decoded from a word encodes to that word. -/

namespace Sys2Proof

theorem descriptor_fields (d : Byte) : descriptor (descOp d) (descGroup d) (descSel d) (descFlag d) = d := by
  simp only [descriptor, descOp, descGroup, descSel, descFlag]
  rw [BitVec.extractLsb'_append_extractLsb'_eq_extractLsb' (by rfl),
    BitVec.extractLsb'_append_extractLsb'_eq_extractLsb' (by rfl),
    BitVec.extractLsb'_append_extractLsb'_eq_extractLsb' (by rfl)]
  exact BitVec.extractLsb'_eq_self

/-- `decode` tells the operations apart by the value of `op`. -/
theorem descriptor_eq {d : Byte} {op : BitVec 3} {g sel : BitVec 2} {fl : BitVec 1}
    (hop : (descOp d).toNat = op.toNat) (hg : descGroup d = g) (hsel : descSel d = sel) (hfl : descFlag d = fl) :
    descriptor op g sel fl = d := by
  rw [← BitVec.eq_of_toNat_eq hop, ← hg, ← hsel, ← hfl, descriptor_fields]

/-! A number reads as an operand exactly when it is the operand's number. -/

theorem groupOfNum_eq_ok (n : BitVec 2) (g : Group) : groupOfNum n = .ok g ↔ n = g.num := by
  revert n
  cases g <;> decide

theorem axisOfNum_eq_ok (n : BitVec 2) (a : Axis) : axisOfNum n = .ok a ↔ n = a.num := by
  revert n
  cases a <;> decide

theorem opaqueOfNum_eq_ok (n : BitVec 2) (f : OpaqueField) : opaqueOfNum n = .ok f ↔ n = f.num := by
  revert n
  cases f <;> decide

theorem flag_axisWidthOfFlag (fl : BitVec 1) : (axisWidthOfFlag fl).flag = fl := by
  revert fl
  decide

theorem ofBool_flag (fl : BitVec 1) : BitVec.ofBool (fl == 1) = fl := by
  revert fl
  decide

theorem mustBeZero_eq_ok {w : Nat} (field : BitVec w) (u : Unit) : mustBeZero field = .ok u ↔ field = 0 := by
  simp [mustBeZero]

/-- A reading in two parts succeeds when both do. -/
theorem Illegal.bind_eq_ok {α β : Type} (x : Except Illegal α) (f : α → Except Illegal β) (b : β) :
    x >>= f = .ok b ↔ ∃ a, x = .ok a ∧ f a = .ok b := by
  cases x <;> simp [bind, Except.bind]

theorem encode_of_decode {d : Byte} {i : Instr} (h : decode d = .ok i) : encode i = d := by
  unfold decode at h
  split at h <;> rename_i hop
  case h_8 => contradiction
  all_goals
    simp only [Illegal.bind_eq_ok, mustBeZero_eq_ok, groupOfNum_eq_ok, axisOfNum_eq_ok, opaqueOfNum_eq_ok, exists_const,
      pure, Except.pure, Except.ok.injEq] at h
  case h_1 =>
    obtain ⟨hg, hfl, f, hsel, rfl⟩ := h
    exact descriptor_eq hop hg hsel hfl
  case h_2 =>
    obtain ⟨hsel, hfl, g, hg, rfl⟩ := h
    exact descriptor_eq hop hg hsel hfl
  case h_3 =>
    obtain ⟨hsel, hfl, g, hg, rfl⟩ := h
    exact descriptor_eq hop hg hsel hfl
  case h_4 =>
    obtain ⟨g, hg, a, hsel, rfl⟩ := h
    exact descriptor_eq hop hg hsel (flag_axisWidthOfFlag _).symm
  case h_5 =>
    obtain ⟨hsel, g, hg, rfl⟩ := h
    exact descriptor_eq hop hg hsel (ofBool_flag _).symm
  case h_6 =>
    obtain ⟨hfl, g, hg, a, hsel, rfl⟩ := h
    exact descriptor_eq hop hg hsel hfl
  case h_7 =>
    obtain ⟨hg, hsel, hfl, rfl⟩ := h
    exact descriptor_eq hop hg hsel hfl

theorem decode_encode (i : Instr) : decode (encode i) = .ok i := by
  cases i with
  | slo f => cases f <;> rfl
  | slm g => cases g <;> rfl
  | sld g => cases g <;> rfl
  | sla g a w => cases g <;> cases a <;> cases w <;> rfl
  | lds g r => cases g <;> cases r <;> rfl
  | cnv g a => cases g <;> cases a <;> rfl
  | endRun => rfl

/-- Settles O1: what is decoded encodes to the word, and the word of an instruction decodes to it. -/
theorem decodeAndEncodeAreInverse : Obligations.DecodeAndEncodeAreInverse := by
  intro d i
  constructor
  · exact encode_of_decode
  · rintro rfl
    exact decode_encode i

/-! ## The opcode table (30_encoding.md R88, R91, R92, R104) -/

theorem wellFormedWord_encode (i : Instr) : wellFormedWord (encode i) = true := by
  cases i with
  | slo f => exact Laws.LegalWord.slo f
  | slm g => exact Laws.LegalWord.slm g
  | sld g => exact Laws.LegalWord.sld g
  | sla g a w => exact Laws.LegalWord.sla g a w
  | lds g r => exact Laws.LegalWord.lds g r
  | cnv g a => exact Laws.LegalWord.cnv g a
  | endRun => exact Laws.LegalWord.endRun

theorem isOk_decode_of_wellFormedWord (d : Byte) (h : wellFormedWord d = true) : (decode d).isOk = true := by
  revert d
  decide

theorem selects_at_most_one_row (d : Byte) : (opcodeRows.filter fun row => row.selects d).length ≤ 1 := by
  revert d
  decide

/-- Settles O2: the encoder gives table rows only, and the other way each of the 256 words is looked at. -/
theorem legalWordsAreTheTableRows : Obligations.LegalWordsAreTheTableRows := by
  refine fun d => ⟨⟨?_, fun h => ?_⟩, selects_at_most_one_row d⟩
  · rintro ⟨i, h⟩
    rw [← encode_of_decode h]
    exact wellFormedWord_encode i
  · have hok := isOk_decode_of_wellFormedWord d h
    cases hd : decode d with
    | ok i => exact ⟨i, rfl⟩
    | error e => simp [hd, Except.isOk, Except.toBool] at hok

theorem legalWordCount : ((List.range 256).filter fun n => (decodeTableWord 8 n).isSome).length = 43 := by
  decide +kernel

theorem rowWordCounts :
    (opcodeRows.map fun row => ((List.range 256).filter fun n => row.selects (BitVec.ofNat 8 n)).length) =
      [3, 3, 3, 18, 6, 9, 1] := by
  decide +kernel

/-- Settles O3: the legal words are counted, and the illegal ones are the others of the 256. -/
theorem wordCounts : Obligations.WordCounts := by
  refine ⟨legalWordCount, ?_, rowWordCounts⟩
  have hsplit := List.length_eq_length_filter_add (l := List.range 256) fun n => (decodeTableWord 8 n).isSome
  simp only [Option.not_isSome, List.length_range, legalWordCount] at hsplit
  omega

/-- Settles O4: each word is the one its instruction encodes to; the operation of `0x00` is reserved. -/
theorem canonicalWordsDecode : Obligations.CanonicalWordsDecode :=
  ⟨decode_encode (.slo .ts), decode_encode (.slm .acc), decode_encode (.sld .mag), decode_encode (.sla .acc .y .w3),
    decode_encode (.sla .mag .y .w2), decode_encode (.lds .mag true), decode_encode (.cnv .mag .z),
    decode_encode .endRun, fun _ h => nomatch (show Except.error Illegal.reservedOp = Except.ok _ from h)⟩

/-- Settles O5: both sides are the same lists. -/
theorem pseudoInstructionsExpand : Obligations.PseudoInstructionsExpand :=
  ⟨fun _ _ _ => rfl, by decide⟩

end Sys2Proof

/-! ## The assembly text (30_encoding.md R108 to R110)

A line written from a mnemonic and operands has just these as its tokens, whatever they are, so long as each is a word. A
comment adds no token. -/

namespace Sys2Proof.Machine

/-- A character that neither separates tokens nor starts a comment. -/
def isWordChar (c : Char) : Bool :=
  c != ';' && c != ' ' && c != '\t' && c != ','

/-- Text that is one token. -/
def isWord (w : List Char) : Bool :=
  !w.isEmpty && w.all isWordChar

/-- The tokens of an operand list: a comma between any two. -/
def operandTokens (operands : List (List Char)) : List (List Char) :=
  operands.intersperse [',']

theorem tokensFrom_comment (word line comment : List Char) :
    tokensFrom word (line ++ ' ' :: ';' :: comment) = tokensFrom word line := by
  induction line generalizing word with
  | nil => simp [tokensFrom]
  | cons c rest ih => simp only [List.cons_append, tokensFrom, ih]

theorem parseLine_comment (line comment : List Char) : parseLine (line ++ ' ' :: ';' :: comment) = parseLine line := by
  simp only [parseLine, tokens, tokensFrom_comment]

theorem tokensFrom_wordChar {c : Char} (hc : isWordChar c = true) (word rest : List Char) :
    tokensFrom word (c :: rest) = tokensFrom (c :: word) rest := by
  simp only [isWordChar, Bool.and_eq_true, bne_iff_ne] at hc
  simp [tokensFrom, hc]

theorem tokensFrom_wordChars {w : List Char} (hw : w.all isWordChar = true) (word rest : List Char) :
    tokensFrom word (w ++ rest) = tokensFrom (w.reverse ++ word) rest := by
  induction w generalizing word with
  | nil => rfl
  | cons c w ih =>
    obtain ⟨hc, hw⟩ := Bool.and_eq_true_iff.mp hw
    simp [tokensFrom_wordChar hc, ih hw]

section Words

variable {w : List Char} (hw : isWord w = true)
include hw

theorem ne_nil_of_isWord : w ≠ [] := by
  rintro rfl
  contradiction

theorem ne_comma_of_isWord : w ≠ [','] := by
  rintro rfl
  contradiction

/-- A word is read to its end. -/
theorem tokensFrom_word (rest : List Char) : tokensFrom [] (w ++ rest) = tokensFrom w.reverse rest := by
  obtain ⟨-, hchars⟩ := Bool.and_eq_true_iff.mp hw
  rw [tokensFrom_wordChars hchars, List.append_nil]

end Words

theorem tokens_moreOperands {w : List Char} (hw : isWord w = true) {operands : List (List Char)}
    (h : operands.all isWord = true) :
    tokensFrom w.reverse (operands.flatMap fun t => ", ".toList ++ t) = operandTokens (w :: operands) := by
  induction operands generalizing w with
  | nil => simp [tokensFrom, operandTokens, ne_nil_of_isWord hw]
  | cons t operands ih =>
    obtain ⟨ht, h⟩ := Bool.and_eq_true_iff.mp h
    simpa [tokensFrom, ne_nil_of_isWord hw, operandTokens, tokensFrom_word ht] using ih ht h

theorem tokens_lineText {mnemonic : String} (hm : isWord mnemonic.toList = true) {operands : List (List Char)}
    (h : operands.all isWord = true) : tokens (lineText mnemonic operands) = mnemonic.toList :: operandTokens operands := by
  have hne := ne_nil_of_isWord hm
  cases operands with
  | nil => simpa [lineText, tokens, operandTokens, tokensFrom, hne] using tokensFrom_word hm []
  | cons t operands =>
    obtain ⟨ht, h⟩ := Bool.and_eq_true_iff.mp h
    simp [lineText, tokens, tokensFrom_word hm, tokensFrom, hne, tokensFrom_word ht, ← tokens_moreOperands ht h]

theorem operandsOf_operandTokens {operands : List (List Char)} (h : operands.all isWord = true) :
    operandsOf (operandTokens operands) = some operands := by
  induction operands with
  | nil => rfl
  | cons t operands ih =>
    obtain ⟨ht, h⟩ := Bool.and_eq_true_iff.mp h
    have hcomma := ne_comma_of_isWord ht
    cases operands with
    | nil => simp [operandTokens, operandsOf, hcomma]
    | cons u operands =>
      have hstep : operandTokens (t :: u :: operands) = t :: [','] :: operandTokens (u :: operands) := by
        simp [operandTokens]
      have hrest : operandTokens (u :: operands) ≠ [] := by
        cases operands <;> simp [operandTokens]
      rw [hstep, operandsOf, ih h, if_pos ⟨hcomma, rfl, hrest⟩]
      rfl

/-- A written line parses as its mnemonic with its operands. -/
theorem parseLine_lineText {mnemonic : String} (hm : isWord mnemonic.toList = true) {operands : List (List Char)}
    (h : operands.all isWord = true) {a : Asm} (ha : asmOf mnemonic.toList operands = some a) :
    parseLine (lineText mnemonic operands) = .code a := by
  simp [parseLine, tokens_lineText hm h, operandsOf_operandTokens h, ha]

/-! Each name is a word and reads back as what it names. -/

@[simp] theorem groupName_readsBack (g : Group) : isWord (groupName g) = true ∧ groupOfName (groupName g) = some g := by
  cases g <;> exact ⟨rfl, rfl⟩

@[simp] theorem axisName_readsBack (a : Axis) : isWord (axisName a) = true ∧ axisOfName (axisName a) = some a := by
  cases a <;> exact ⟨rfl, rfl⟩

@[simp] theorem opaqueName_readsBack (f : OpaqueField) :
    isWord (opaqueName f) = true ∧ opaqueOfName (opaqueName f) = some f := by
  cases f <;> exact ⟨rfl, rfl⟩

@[simp] theorem widthName_readsBack (w : AxisWidth) :
    isWord (widthName w) = true ∧ widthOfName (widthName w) = some w := by
  cases w <;> exact ⟨rfl, rfl⟩

@[simp] theorem flagName_readsBack (r : Bool) : isWord (flagName r) = true ∧ flagOfName (flagName r) = some r := by
  cases r <;> exact ⟨rfl, rfl⟩

theorem parseLine_asmText (a : Asm) : parseLine (asmText a) = .code a := by
  unfold asmText
  split
  all_goals exact parseLine_lineText rfl (by simp) (by simp [asmOf])

/-- Settles O6: a comment adds no token, and each line reads back as the line it was written from. -/
theorem assemblyTextReadsBack : Obligations.AssemblyTextReadsBack :=
  fun a comment => ⟨parseLine_asmText a, (parseLine_comment _ comment).trans (parseLine_asmText a)⟩

end Sys2Proof.Machine

/-! ## The canonical program makes its progress (30_encoding.md R104, R105, 60_exceptions.md R264)

An instruction that passes its checks raises no fault. Whether the checks pass is read off CUR and WFLAGS, and these are
what the first DPC descriptors leave; so that they pass is a fact about the program. -/

namespace Sys2Proof.Machine

/-- The sources of an instruction are marked as written in the word WFLAGS (R36, R257). -/
def sourceBitsSet (w : BitVec 32) : Instr → Bool
  | .lds g _ => w.getLsbD (3 + g.num.toNat) && w.getLsbD (6 + g.num.toNat)
  | .cnv g a => w.getLsbD (9 + 3 * g.num.toNat + a.num.toNat) && w.getLsbD (18 + g.num.toNat)
  | _ => true

theorem sourceBitsSet_lds (f : WFlags) (g : Group) (r : Bool) :
    sourceBitsSet f.word (.lds g r) = f.scaleSources g := by
  obtain ⟨-, -, -, hgroup, -⟩ := flagBitsOfWflags f
  obtain ⟨hmulb, hdivb, -, -⟩ := hgroup g
  rw [sourceBitsSet, hmulb, hdivb, WFlags.scaleSources]

theorem sourceBitsSet_cnv (f : WFlags) (g : Group) (a : Axis) :
    sourceBitsSet f.word (.cnv g a) = f.convertSources g a := by
  obtain ⟨-, -, -, hgroup, -⟩ := flagBitsOfWflags f
  obtain ⟨-, -, hscale, haxis⟩ := hgroup g
  obtain ⟨haxb, -⟩ := haxis a
  rw [sourceBitsSet, haxb, hscale, WFlags.convertSources]

/-- An instruction that passes the checks of R257, R258 and R259 raises no fault and sets its one flag. -/
theorem exec_of_checks {i : Instr} {s t : State} (hsrc : sourceBitsSet s.written.word i = true)
    (hfit : s.cur.toNat + i.sliceWidth ≤ 64) (hd : s.dpc ≠ 31) (h : exec i s = .next t) :
    t.fcause = s.fcause ∧ t.status = (if i = .endRun then .done else s.status) ∧
      t.written.word = flagsAfter s.written.word i := by
  cases i with
  | slo f =>
    rw [exec_slo, slice_of_fits (w := f.width) hfit hd] at h
    obtain rfl := Host.Outcome.next.inj h
    simp [flagsAfter, flagPosition, WFlags.word_setOpaque]
  | slm g =>
    rw [exec_slm, slice_of_fits (w := 2) hfit hd] at h
    obtain rfl := Host.Outcome.next.inj h
    simp [flagsAfter, flagPosition, WFlags.word_setMulb]
  | sld g =>
    rw [exec_sld, slice_of_fits (w := 4) hfit hd] at h
    obtain rfl := Host.Outcome.next.inj h
    simp [flagsAfter, flagPosition, WFlags.word_setDivb]
  | sla g a w =>
    rw [exec_sla, slice_of_fits (w := w.bytes) hfit hd] at h
    obtain rfl := Host.Outcome.next.inj h
    simp [flagsAfter, flagPosition, WFlags.word_setAxb]
  | lds g r =>
    rw [sourceBitsSet_lds] at hsrc
    obtain rfl := Host.Outcome.next.inj ((exec_lds_of_sources hsrc hd).symm.trans h)
    simp [flagsAfter, flagPosition, WFlags.word_setScale]
  | cnv g a =>
    rw [sourceBitsSet_cnv] at hsrc
    obtain rfl := Host.Outcome.next.inj ((exec_cnv_of_sources hsrc hd).symm.trans h)
    simp [flagsAfter, flagPosition, WFlags.word_setVec]
  | endRun =>
    obtain rfl := execEndRun_cases h
    simp [flagsAfter, flagPosition]

theorem foldl_take_succ {α β : Type} (f : β → α → β) (b : β) {p : List α} {k : Nat} {i : α} (h : p[k]? = some i) :
    (p.take (k + 1)).foldl f b = f ((p.take k).foldl f b) i := by
  rw [List.take_add_one, h, List.foldl_append]
  rfl

/-! What the program is, descriptor by descriptor. -/

/-- Each LDS and CNV of the program comes after its sources. -/
theorem expandReport_sources {k : Nat} {i : Instr} (hi : expandReport[k]? = some i) :
    sourceBitsSet ((expandReport.take k).foldl flagsAfter 0) i = true := by
  obtain ⟨hk, rfl⟩ := List.getElem?_eq_some_iff.mp hi
  have hall : ∀ k : Fin 31, sourceBitsSet ((expandReport.take k).foldl flagsAfter 0) expandReport[k] = true := by
    decide
  exact hall ⟨k, hk⟩

theorem expandReport_slices {k : Nat} {i : Instr} (hi : expandReport[k]? = some i) :
    slicedBy (expandReport.take k) + i.sliceWidth ≤ 64 := by
  rw [← slicedBy_take_succ hi]
  exact (slicedBy_take_le _ _).trans (by decide)

/-- END stands at index 30. -/
theorem lt_of_not_endRun {k : Nat} {i : Instr} (hk : k ≤ 30) (hi : expandReport[k]? = some i) (hend : i ≠ .endRun) :
    k < 30 := by
  refine lt_of_le_of_ne hk fun h => hend ?_
  rw [h] at hi
  exact (Option.some.inj hi).symm

namespace CanonicalProgress

variable {s t : State}

/-- The progress says nothing of the host's side of the state. -/
theorem withHost (h : CanonicalProgress s) (inbox : List HostEvent) (answers : List Answer) (draws : Nat) :
    CanonicalProgress { s with inbox := inbox, answers := answers, draws := draws } :=
  ⟨h.rom, h.noFault, h.noCause, h.beforeEnd, h.cursor, h.flags⟩

/-- Outside BUSY there is nothing to say of the decode. -/
theorem of_not_busy (hrom : s.params.layoutRom = Config.canonicalRom) (hcause : s.fcause = .none)
    (hfault : s.status ≠ .fault) (hb : s.status ≠ .busy) : CanonicalProgress s :=
  ⟨hrom, hfault, hcause, fun h => absurd h hb, fun h => absurd h hb, fun h => absurd h hb⟩

/-- At the start of the program nothing is sliced and no flag is set. -/
theorem of_start (hrom : s.params.layoutRom = Config.canonicalRom) (hcause : s.fcause = .none)
    (hfault : s.status ≠ .fault) (hdpc : s.dpc = 0) (hcur : s.cur = 0) (hflags : s.written = .clear) :
    CanonicalProgress s where
  rom := hrom
  noFault := hfault
  noCause := hcause
  beforeEnd _ := by simp [hdpc]
  cursor _ := by simp [hdpc, hcur, slicedBy]
  flags _ := by
    rw [hdpc, hflags]
    rfl

/-- No index up to 30 holds an illegal word. -/
theorem decode_fetch_ne_error (h : CanonicalProgress s) (hb : s.status = .busy) (e : Illegal) :
    decode (fetch s) ≠ .error e := by
  intro hdec
  have hk := h.beforeEnd hb
  have hfetch : fetch s = Config.canonicalRom[s.dpc.toFin] := by simp [fetch, h.rom]
  have hrow := decode_canonicalRom s.dpc.toFin
  rw [← hfetch, hdec] at hrow
  have hlen : 31 ≤ s.dpc.toNat := List.getElem?_eq_none_iff.mp hrow.symm
  omega

/-- The descriptor at DPC takes the progress one further, or ends the run. -/
theorem exec (h : CanonicalProgress s) (hb : s.status = .busy) {i : Instr} (hi : expandReport[s.dpc.toNat]? = some i)
    (ht : exec i s = .next t) : CanonicalProgress t := by
  have hk := h.beforeEnd hb
  have hd : s.dpc ≠ 31 := by
    intro e
    simp [e] at hk
  have hsrc : sourceBitsSet s.written.word i = true := by
    rw [h.flags hb]
    exact expandReport_sources hi
  have hfit : s.cur.toNat + i.sliceWidth ≤ 64 := by
    rw [h.cursor hb]
    exact expandReport_slices hi
  obtain ⟨hcause, hstatus, hflags⟩ := exec_of_checks hsrc hfit hd ht
  obtain ⟨hparams, -, -⟩ := exec_keeps ht
  have hrom : t.params.layoutRom = Config.canonicalRom := by rw [hparams, h.rom]
  rw [h.noCause] at hcause
  by_cases hend : i = .endRun
  · rw [if_pos hend] at hstatus
    exact of_not_busy hrom hcause (by simp [hstatus]) (by simp [hstatus])
  · rw [if_neg hend, hb] at hstatus
    have hlt := lt_of_not_endRun hk hi hend
    obtain ⟨hover, -, -⟩ | ⟨hcur, hdpc⟩ := exec_position ht
    · exact absurd hstatus hover
    · exact
        { rom := hrom
          noFault := by simp [hstatus]
          noCause := hcause
          beforeEnd := fun _ => by omega
          cursor := fun _ => by rw [hcur, hdpc, h.cursor hb, slicedBy_take_succ hi]
          flags := fun _ => by rw [hflags, hdpc, h.flags hb, foldl_take_succ _ _ hi] }

theorem sequencerTurn (h : CanonicalProgress s) (ht : sequencerTurn s = .next t) : CanonicalProgress t := by
  obtain ⟨-, rfl⟩ | ⟨hb, ⟨e, hdec⟩, -⟩ | ⟨hb, i, hdec, he⟩ := sequencerTurn_cases ht
  · exact h
  · exact absurd hdec (h.decode_fetch_ne_error hb e)
  · exact h.exec hb (expandReport_of_decode h.rom hdec) he

theorem deliver (h : CanonicalProgress s) (F : List Byte) : CanonicalProgress (s.deliver F) :=
  of_start (by simpa using h.rom) (by simp) (by by_cases hF : F.length = 64 <;> simp [hF]) (by simp) (by simp) (by simp)

theorem resetBlock (h : CanonicalProgress s) : CanonicalProgress s.resetBlock :=
  of_start (by simpa using h.rom) (by simp) (by simp) (by simp) (by simp) (by simp)

end CanonicalProgress

/-- Settles O60: the sequencer's turn takes the progress on, DELIVER and RESET put it at the start. -/
theorem stepKeepsTheCanonicalProgress : Obligations.StepKeepsTheCanonicalProgress := by
  intro s t h ht
  obtain ⟨inbox, ht⟩ | ⟨F, rest, -, -, rfl⟩ | ⟨n, rest, -, rfl⟩ | ⟨rest, -, rfl⟩ := step_cases_of_turn ht
  · exact (h.withHost inbox s.answers s.draws).sequencerTurn ht
  · exact (h.withHost rest s.answers s.draws).deliver F
  · exact h.withHost rest _ _
  · exact (h.withHost rest s.answers s.draws).resetBlock

end Sys2Proof.Machine

/-! ## The slices: effect, completion and frame (40_slice.md R120 to R128)

Where a slice takes effect, the four instructions differ only in the register written. What they share is said once, of
the state that this write and the common completion leave. -/

namespace Sys2Proof.Machine

/-- The own write of a slice instruction (R122, R124, R126, R128): its destination takes the bytes at the cursor, and
its flag is set. The other instructions slice nothing. -/
def State.putSlice (s : State) : Instr → State
  | .slo f => s.putOpaque f (memRead s.rb s.cur.toNat f.width)
  | .slm g => s.putMulb g (memRead s.rb s.cur.toNat 2)
  | .sld g => s.putDivb g (memRead s.rb s.cur.toNat 4)
  | .sla g a w => s.putAxis g a (.ofSlice w (memRead s.rb s.cur.toNat w.bytes))
  | .lds _ _ => s
  | .cnv _ _ => s
  | .endRun => s

/-- The state after a slice instruction that takes effect (R120, R206). -/
def State.sliced (s : State) (i : Instr) : State :=
  ((s.putSlice i).moveCursor i.sliceWidth).advance

theorem exec_slice {i : Instr} {s : State} (hi : isSlice i = true) (hw : s.cur.toNat + i.sliceWidth ≤ 64)
    (hd : s.dpc ≠ 31) : exec i s = .next (s.sliced i) := by
  cases i with
  | slo f => exact (exec_slo f s).trans (slice_of_fits hw hd)
  | slm g => exact (exec_slm g s).trans (slice_of_fits hw hd)
  | sld g => exact (exec_sld g s).trans (slice_of_fits hw hd)
  | sla g a w => exact (exec_sla g a w s).trans (slice_of_fits hw hd)
  | lds _ _ => cases hi
  | cnv _ _ => cases hi
  | endRun => cases hi

theorem State.putSlice_position (s : State) (i : Instr) :
    (s.putSlice i).cur = s.cur ∧ (s.putSlice i).dpc = s.dpc := by
  cases i <;> simp [putSlice]

theorem sourceBitsSet_of_isSlice {i : Instr} (w : BitVec 32) (hi : isSlice i = true) : sourceBitsSet w i = true := by
  cases i with
  | lds _ _ => cases hi
  | cnv _ _ => cases hi
  | _ => rfl

/-- Where a slice that takes effect leaves the cursor, DPC and the flags. -/
theorem sliced_completes {i : Instr} {s : State} (hi : isSlice i = true) (hw : s.cur.toNat + i.sliceWidth ≤ 64)
    (hd : s.dpc ≠ 31) :
    (s.sliced i).cur.toNat = s.cur.toNat + i.sliceWidth ∧ (s.sliced i).dpc.toNat = s.dpc.toNat + 1 ∧
      (s.sliced i).written.word = flagsAfter s.written.word i := by
  obtain ⟨hcur, hdpc⟩ := slice_position (s.putSlice_position i) hw hd
  obtain ⟨-, -, hflags⟩ := exec_of_checks (sourceBitsSet_of_isSlice _ hi) hw hd (exec_slice hi hw hd)
  exact ⟨hcur, hdpc, hflags⟩

/-! The opaque registers as byte lists. -/

theorem State.opaqueBytes_putOpaque_same (s : State) (f : OpaqueField) (L : Bytes f.width) :
    (s.putOpaque f L).opaqueBytes f = L.toList := by
  cases f <;> rfl

theorem State.opaqueBytes_putOpaque_other (s : State) {f h : OpaqueField} (L : Bytes f.width) (hne : h ≠ f) :
    (s.putOpaque f L).opaqueBytes h = s.opaqueBytes h := by
  revert hne
  cases f <;> cases h <;> simp [opaqueBytes, putOpaque]

/-! What a slice leaves unchanged. -/

theorem State.sliced_sameAround (s : State) (i : Instr) : SameAround s (s.sliced i) := by
  cases i <;> constructor <;> simp [sliced, putSlice]

theorem State.sliced_status (s : State) (i : Instr) : (s.sliced i).status = s.status := by
  cases i <;> simp [sliced, putSlice]

theorem State.sliced_sameResults (s : State) (i : Instr) :
    SameResults s (s.sliced i) (fun _ => False) (fun _ _ => False) := by
  cases i <;> constructor <;> simp [sliced, putSlice]

theorem State.sliced_sameFields (s : State) (i : Instr) :
    SameFields s (s.sliced i) (fun f => i = .slo f) (fun g => i = .slm g) (fun g => i = .sld g)
      (fun g a => ∃ w, i = .sla g a w) := by
  cases i with
  | slo f =>
    exact
      { opaqueRegs := fun h hne => s.opaqueBytes_putOpaque_other _ fun e => hne (by rw [e])
        mulb := by simp [sliced, putSlice]
        divb := by simp [sliced, putSlice]
        axb := by simp [sliced, putSlice] }
  | slm g =>
    exact
      { opaqueRegs := fun _ _ => rfl
        mulb := fun h hne => PerGroup.get_set_other _ g h _ fun e => hne (by rw [e])
        divb := fun _ _ => rfl
        axb := fun _ _ _ => rfl }
  | sld g =>
    exact
      { opaqueRegs := fun _ _ => rfl
        mulb := fun _ _ => rfl
        divb := fun h hne => PerGroup.get_set_other _ g h _ fun e => hne (by rw [e])
        axb := fun _ _ _ => rfl }
  | sla g a w =>
    exact
      { opaqueRegs := fun _ _ => rfl
        mulb := fun _ _ => rfl
        divb := fun _ _ => rfl
        axb := fun h b hne =>
          (PerGroup.at2_set2 _ g h a b _).trans (if_neg fun ⟨hg, ha⟩ => hne ⟨w, by rw [hg, ha]⟩) }
  | _ => exact ⟨fun _ _ => rfl, fun _ _ => rfl, fun _ _ => rfl, fun _ _ _ => rfl⟩

/-- Settles O18: a slice that fits and is not at index 31 takes effect, and its one write is the only one. -/
theorem sliceFrame : Obligations.SliceFrame := by
  intro i s t hi hw hd h
  obtain rfl := Host.Outcome.next.inj ((exec_slice hi hw hd).symm.trans h)
  exact ⟨s.sliced_sameAround i, s.sliced_status i, s.sliced_sameFields i, s.sliced_sameResults i⟩

/-- Settles O14: SIG, TEMP or TS takes the bytes at the cursor. -/
theorem sloEffect : Obligations.SloEffect := by
  intro f s hw hd
  refine ⟨_, exec_slice rfl hw hd, ?_, sliced_completes rfl hw hd⟩
  exact (State.opaqueBytes_putOpaque_same s f _).trans (toList_memRead _ _ _)

/-- Settles O15: MULB takes the bytes at the cursor. -/
theorem slmEffect : Obligations.SlmEffect := by
  intro g s hw hd
  refine ⟨_, exec_slice rfl hw hd, ?_, sliced_completes rfl hw hd⟩
  simp [State.sliced, State.putSlice, toList_memRead, bytesAt]

/-- Settles O16: DIVB takes the bytes at the cursor. -/
theorem sldEffect : Obligations.SldEffect := by
  intro g s hw hd
  refine ⟨_, exec_slice rfl hw hd, ?_, sliced_completes rfl hw hd⟩
  simp [State.sliced, State.putSlice, toList_memRead, bytesAt]

/-- Settles O17: AXB takes the bytes at the cursor in the form of the width. -/
theorem slaEffect : Obligations.SlaEffect := by
  intro g a w s hw hd
  refine ⟨_, exec_slice rfl hw hd, ?_, ?_, sliced_completes rfl hw hd⟩
  · simp [State.sliced, State.putSlice, AxisBytes.bytes_ofSlice, toList_memRead, bytesAt]
  · simp [State.sliced, State.putSlice, AxisBytes.axn_ofSlice]

end Sys2Proof.Machine

/-! ## Unpacking (41_unpack.md R140 to R151, R166)

An unpacked number is written in base 256: every byte below the last is a digit, and the last one carries the sign. So
its closed form, its range and its injectivity come from those of the last byte, sign-extended or, in the 2-byte axis,
with its bias XOR. -/

namespace Sys2Proof

theorem Bytes.ext_two {L L' : Bytes 2} (h0 : L[0] = L'[0]) (h1 : L[1] = L'[1]) : L = L' :=
  Vector.ext fun
    | 0, _ => h0
    | 1, _ => h1

theorem Bytes.ext_four {L L' : Bytes 4} (h0 : L[0] = L'[0]) (h1 : L[1] = L'[1]) (h2 : L[2] = L'[2])
    (h3 : L[3] = L'[3]) : L = L' :=
  Vector.ext fun
    | 0, _ => h0
    | 1, _ => h1
    | 2, _ => h2
    | 3, _ => h3

end Sys2Proof

namespace Sys2Proof.Machine

/-! The sign-carrying byte (R140, R141). -/

theorem sext8_eq_toInt (v : Byte) : sext8 v = v.toInt := by
  revert v
  decide

theorem sext8_eq_ite (v : Byte) : sext8 v = if v.toNat < 128 then (v.toNat : Int) else (v.toNat : Int) - 256 := by
  have hlt := v.isLt
  rw [sext8_eq_toInt, BitVec.toInt_eq_toNat_cond]
  split <;> split <;> omega

theorem sext8_range (v : Byte) : -128 ≤ sext8 v ∧ sext8 v ≤ 127 := by
  have hlt := v.isLt
  rw [sext8_eq_ite]
  split <;> omega

theorem sext8_injective {v w : Byte} (h : sext8 v = sext8 w) : v = w := by
  rw [sext8_eq_toInt, sext8_eq_toInt] at h
  exact BitVec.eq_of_toInt_eq h

theorem sext8_emod (v : Byte) : sext8 v % 256 = v.toNat := by
  have hlt := v.isLt
  rw [sext8_eq_ite]
  split <;> omega

theorem sext8_ofInt {s : Int} (hlow : -128 ≤ s) (hhigh : s ≤ 127) : sext8 (BitVec.ofInt 8 s) = s := by
  rw [sext8_eq_toInt]
  exact BitVec.toInt_ofInt_eq_self (by omega) (by omega) (by omega)

/-- Settles O7: `sext_8` is the two's-complement reading of the byte. -/
theorem signExtensionOfAByte : Obligations.SignExtensionOfAByte :=
  ⟨sext8_eq_ite, by decide, by decide, by decide, by decide, by decide, by decide, by decide,
    fun _ _ => sext8_injective, sext8_emod⟩

/-! The bias XOR (R146). -/

/-- From 9 bits up the exclusive OR at a width is the sign extension of the one at 9 bits. -/
theorem bxor80At_eq_bxor80 {width : Nat} {s : Int} (hw : 9 ≤ width) (hlow : -128 ≤ s) (hhigh : s ≤ 127) :
    bxor80At width s = bxor80 s := by
  have hs : (BitVec.ofInt 9 s).toInt = s := BitVec.toInt_ofInt_eq_self (by omega) (by omega) (by omega)
  have hs' : BitVec.ofInt width s = (BitVec.ofInt 9 s).signExtend width := by rw [BitVec.signExtend, hs]
  have hbias : BitVec.ofNat width 0x80 = (BitVec.ofNat 9 0x80).signExtend width := rfl
  rw [bxor80At, hs', hbias, ← BitVec.signExtend_xor, BitVec.toInt_signExtend_of_le hw]
  rfl

theorem bxor80_sext8 (v : Byte) :
    bxor80 (sext8 v) = if 0 ≤ sext8 v then sext8 v + 128 else sext8 v - 128 := by
  revert v
  decide

/-- Settles O12: the width does not matter, and at 9 bits the 256 values of a sign-extended byte are all there are. -/
theorem biasXorAtEveryWidth : Obligations.BiasXorAtEveryWidth := by
  intro width s hw hlow hhigh
  have hwidth := bxor80At_eq_bxor80 hw hlow hhigh
  have hclosed := bxor80_sext8 (BitVec.ofInt 8 s)
  rw [sext8_ofInt hlow hhigh] at hclosed
  exact ⟨hwidth.trans hclosed, hwidth⟩

/-! Numbers in base 256: a byte is the lowest digit of one number only. -/

theorem byte_add_mul_inj {b b' : Byte} {x x' : Int} (h : (b.toNat : Int) + 256 * x = b'.toNat + 256 * x') :
    b = b' ∧ x = x' := by
  have hlt := b.isLt
  have hlt' := b'.isLt
  exact ⟨BitVec.eq_of_toNat_eq (by omega), by omega⟩

/-! The multiplier (R142, R143). -/

theorem mul16_range (L : Bytes 2) : -32768 ≤ mul16 L ∧ mul16 L ≤ 32767 := by
  have hlo := L[0].isLt
  have hhi := sext8_range L[1]
  rw [mul16]
  omega

theorem mul16_injective {L L' : Bytes 2} (h : mul16 L = mul16 L') : L = L' := by
  obtain ⟨hlo, hhi⟩ := byte_add_mul_inj h
  exact Bytes.ext_two hlo (sext8_injective hhi)

/-- The encoding of a value: its last digit, and the rest as a signed byte. -/
theorem mul16_ofInt {v : Int} (hlow : -32768 ≤ v) (hhigh : v ≤ 32767) :
    mul16 #v[BitVec.ofInt 8 v, BitVec.ofInt 8 (v / 256)] = v := by
  have hlo : ((BitVec.ofInt 8 v).toNat : Int) = v % 256 := by
    rw [BitVec.toNat_ofInt]
    omega
  have hhi : sext8 (BitVec.ofInt 8 (v / 256)) = v / 256 := sext8_ofInt (by omega) (by omega)
  change ((BitVec.ofInt 8 v).toNat : Int) + 256 * sext8 (BitVec.ofInt 8 (v / 256)) = v
  omega

/-- Settles O8: the sign of the number is the sign of the high byte. -/
theorem multiplierReading : Obligations.MultiplierReading := by
  refine ⟨fun lo hi => ?_, mul16_range, by decide, by decide, fun v hlow hhigh => ?_⟩
  · have hlo := lo.isLt
    change (lo.toNat : Int) + 256 * sext8 hi = _
    rw [sext8_eq_ite]
    split <;> split <;> omega
  · exact ⟨_, mul16_ofInt hlow hhigh, fun L' h => mul16_injective (h.trans (mul16_ofInt hlow hhigh).symm)⟩

/-! The divisor (R144, R145). -/

theorem div32_range (L : Bytes 4) : -2147483648 ≤ div32 L ∧ div32 L ≤ 2147483647 := by
  have h0 := L[0].isLt
  have h1 := L[1].isLt
  have h2 := L[2].isLt
  have h3 := sext8_range L[3]
  rw [div32]
  omega

theorem div32_eq_digits (L : Bytes 4) :
    div32 L = L[0].toNat + 256 * (L[1].toNat + 256 * (L[2].toNat + 256 * sext8 L[3])) := by
  rw [div32]
  omega

theorem div32_injective {L L' : Bytes 4} (h : div32 L = div32 L') : L = L' := by
  rw [div32_eq_digits, div32_eq_digits] at h
  obtain ⟨h0, h⟩ := byte_add_mul_inj h
  obtain ⟨h1, h⟩ := byte_add_mul_inj h
  obtain ⟨h2, h⟩ := byte_add_mul_inj h
  exact Bytes.ext_four h0 h1 h2 (sext8_injective h)

/-- Settles O9: the sign of the number is the sign of the last byte, and zero bytes are the one encoding of 0. -/
theorem divisorReading : Obligations.DivisorReading := by
  refine ⟨fun b0 b1 b2 b3 => ?_, div32_range, by decide, by decide, by decide, fun L => ⟨fun h => ?_, ?_⟩⟩
  · have h0 := b0.isLt
    have h1 := b1.isLt
    have h2 := b2.isLt
    change (b0.toNat : Int) + 256 * b1.toNat + 65536 * b2.toNat + 16777216 * sext8 b3 = _
    rw [sext8_eq_ite]
    split <;> split <;> omega
  · exact div32_injective (h.trans (by decide))
  · rintro rfl
    decide

/-! The 3-byte axis (R150, R151). -/

theorem raw3_range (L : Bytes 3) : -8388608 ≤ raw3 L ∧ raw3 L ≤ 8388607 := by
  have h0 := L[0].isLt
  have h1 := L[1].isLt
  have h2 := sext8_range L[2]
  rw [raw3]
  omega

/-- Settles O10: the sign of the number is the sign of the last byte. -/
theorem threeByteAxisReading : Obligations.ThreeByteAxisReading := by
  refine ⟨fun b0 b1 b2 => ?_, raw3_range, by decide, by decide⟩
  have h0 := b0.isLt
  have h1 := b1.isLt
  change sext8 b2 * 65536 + (b1.toNat : Int) * 256 + b0.toNat = _
  rw [sext8_eq_ite]
  split <;> split <;> omega

/-! The 2-byte axis (R148, R149). -/

theorem raw2_eq_ite (L : Bytes 2) :
    raw2 L = if L[1].toNat < 128 then (L[0].toNat + 256 * L[1].toNat : Int) + 32768
      else (L[0].toNat + 256 * L[1].toNat : Int) - 98304 := by
  have hhi := L[1].isLt
  rw [raw2, bxor80_sext8, sext8_eq_ite]
  split <;> split <;> omega

theorem raw2_range (L : Bytes 2) :
    (32768 ≤ raw2 L ∧ raw2 L ≤ 65535) ∨ (-65536 ≤ raw2 L ∧ raw2 L ≤ -32769) := by
  have hlo := L[0].isLt
  have hhi := L[1].isLt
  rw [raw2_eq_ite]
  split <;> omega

/-- The sign tells a high byte below 0x80 from the others, and on each side RAW2 is the little-endian pair moved by a
constant. -/
theorem raw2_injective {L L' : Bytes 2} (h : raw2 L = raw2 L') : L = L' := by
  have hdigits : (L[0].toNat : Int) + 256 * L[1].toNat = L'[0].toNat + 256 * L'[1].toNat := by
    have hlo := L[0].isLt
    have hhi := L[1].isLt
    have hlo' := L'[0].isLt
    have hhi' := L'[1].isLt
    rw [raw2_eq_ite, raw2_eq_ite] at h
    split at h <;> split at h <;> omega
  obtain ⟨hlo, hhi⟩ := byte_add_mul_inj hdigits
  exact Bytes.ext_two hlo (BitVec.eq_of_toNat_eq (Int.ofNat.inj hhi))

/-- Settles O11: the bias XOR moves the two halves of the range apart. -/
theorem twoByteAxisReading : Obligations.TwoByteAxisReading :=
  ⟨fun lo hi => raw2_eq_ite #v[lo, hi], raw2_range, fun _ _ => raw2_injective⟩

/-! The registers hold the unpacked values (R166). -/

theorem toInt_ofInt_mul16 (L : Bytes 2) : (BitVec.ofInt 16 (mul16 L)).toInt = mul16 L := by
  have hrange := mul16_range L
  exact BitVec.toInt_ofInt_eq_self (by omega) (by omega) (by omega)

theorem toInt_ofInt_div32 (L : Bytes 4) : (BitVec.ofInt 32 (div32 L)).toInt = div32 L := by
  have hrange := div32_range L
  exact BitVec.toInt_ofInt_eq_self (by omega) (by omega) (by omega)

theorem rawOf_range (field : AxisBytes) : -8388608 ≤ rawOf field ∧ rawOf field ≤ 8388607 := by
  cases field with
  | b16 L =>
    have hrange := raw2_range L
    rw [rawOf]
    omega
  | s24 L => exact raw3_range L

theorem toInt_ofInt_rawOf (field : AxisBytes) : (BitVec.ofInt 24 (rawOf field)).toInt = rawOf field := by
  have hrange := rawOf_range field
  exact BitVec.toInt_ofInt_eq_self (by omega) (by omega) (by omega)

/-- Settles O13: the ranges of the unpacked values lie within those of the registers. -/
theorem registersHoldUnpackedValues : Obligations.RegistersHoldUnpackedValues :=
  ⟨toInt_ofInt_mul16, toInt_ofInt_div32, toInt_ofInt_rawOf⟩

end Sys2Proof.Machine

/-! ## LDS and CNV: effect, completion and frame (41_unpack.md R152, 42_scale.md R170)

As with the slices, each instruction is one write and the common completion. -/

namespace Sys2Proof.Machine

@[simp] theorem orderBytes_false {n : Nat} (L : Bytes n) : orderBytes false L = L := rfl

@[simp] theorem orderBytes_true {n : Nat} (L : Bytes n) : orderBytes true L = L.rev := rfl

/-- `M[g]` as the bytes say it, the reversed list read from its other end. -/
theorem mul16_orderBytes (r : Bool) (L : Bytes 2) :
    mul16 (orderBytes r L) =
      if r then (L[1].toNat : Int) + 256 * sext8 L[0] else (L[0].toNat : Int) + 256 * sext8 L[1] := by
  cases r <;> simp [mul16]

/-- `D[g]` as the bytes say it, the reversed list read from its other end. -/
theorem div32_orderBytes (r : Bool) (L : Bytes 4) :
    div32 (orderBytes r L) =
      if r then (L[3].toNat : Int) + 256 * L[2].toNat + 65536 * L[1].toNat + 16777216 * sext8 L[0]
      else (L[0].toNat : Int) + 256 * L[1].toNat + 65536 * L[2].toNat + 16777216 * sext8 L[3] := by
  cases r <;> simp [div32]

/-- Settles O19: the registers hold what the ordered bytes are read as. -/
theorem ldsEffect : Obligations.LdsEffect := by
  intro g r s hmulb hdivb hd
  have hsrc := (s.written.scaleSources_iff g).mpr ⟨hmulb, hdivb⟩
  refine ⟨_, exec_lds_of_sources hsrc hd, ?_, ?_, toNat_advance (s := s.putScale g _ _) hd, ?_⟩
  · rw [← mul16_orderBytes, ← toInt_ofInt_mul16]
    simp
  · rw [← div32_orderBytes, ← toInt_ofInt_div32]
    simp
  · simp [flagsAfter, flagPosition, WFlags.word_setScale]

theorem scaleSources_of_not_sourceMissing {s : State} {g : Group} {r : Bool} (h : ¬ s.sourceMissing (.lds g r)) :
    s.written.scaleSources g = true := by
  simpa [State.sourceMissing, WFlags.scaleSources_iff] using h

theorem convertSources_of_not_sourceMissing {s : State} {g : Group} {a : Axis} (h : ¬ s.sourceMissing (.cnv g a)) :
    s.written.convertSources g a = true := by
  simpa [State.sourceMissing, WFlags.convertSources_iff] using h

/-- What the write of LDS and the advance leave of the scale and result registers. -/
theorem State.putScale_sameResults (s : State) (g : Group) (r : Bool) (m d : Int) :
    SameResults s (s.putScale g m d).advance (fun h => ∃ r', Instr.lds g r = .lds h r')
      (fun h b => Instr.lds g r = .cnv h b) where
  m h hne := PerGroup.get_set_other _ g h _ fun e => hne ⟨r, by rw [e]⟩
  d h hne := PerGroup.get_set_other _ g h _ fun e => hne ⟨r, by rw [e]⟩
  raw _ _ _ := rfl
  vec _ _ _ := rfl

/-- What the write of CNV and the advance leave of the scale and result registers. -/
theorem State.putVec_sameResults (s : State) (g : Group) (a : Axis) (raw : Int) (v : Word64) :
    SameResults s (s.putVec g a raw v).advance (fun h => ∃ r, Instr.cnv g a = .lds h r)
      (fun h b => Instr.cnv g a = .cnv h b) where
  m _ _ := rfl
  d _ _ := rfl
  raw h b hne := (PerGroup.at2_set2 _ g h a b _).trans (if_neg fun ⟨hg, ha⟩ => hne (by rw [hg, ha]))
  vec h b hne := (PerGroup.at2_set2 _ g h a b _).trans (if_neg fun ⟨hg, ha⟩ => hne (by rw [hg, ha]))

/-- Settles O21: with its sources written and not at index 31 the instruction takes effect, and its one write is the
only one. -/
theorem scaleAndConvertFrame : Obligations.ScaleAndConvertFrame := by
  intro i s t hi hsrc hd h
  obtain ⟨g, r, rfl⟩ | ⟨g, a, rfl⟩ := hi
  · have hexec := exec_lds_of_sources (r := r) (scaleSources_of_not_sourceMissing hsrc) hd
    obtain rfl := Host.Outcome.next.inj (hexec.symm.trans h)
    refine ⟨?_, rfl, rfl, ?_, s.putScale_sameResults g r _ _⟩
    · constructor <;> simp
    · exact ⟨fun _ _ => rfl, fun _ _ => rfl, fun _ _ => rfl, fun _ _ _ => rfl⟩
  · have hexec := exec_cnv_of_sources (convertSources_of_not_sourceMissing hsrc) hd
    obtain rfl := Host.Outcome.next.inj (hexec.symm.trans h)
    refine ⟨?_, rfl, rfl, ?_, s.putVec_sameResults g a _ _⟩
    · constructor <;> simp
    · exact ⟨fun _ _ => rfl, fun _ _ => rfl, fun _ _ => rfl, fun _ _ _ => rfl⟩

end Sys2Proof.Machine

namespace Sys2Proof.Machine

/-- Settles O20: RAW holds what the field is read as, and VEC its scaled value. -/
theorem cnvEffect : Obligations.CnvEffect := by
  intro g a s haxb hscale hd
  have hsrc := (s.written.convertSources_iff g a).mpr ⟨haxb, hscale⟩
  refine ⟨_, exec_cnv_of_sources hsrc hd, fun L hL => ?_, fun L hL => ?_, ?_,
    toNat_advance (s := s.putVec g a _ _) hd, ?_⟩
  · simpa [hL, rawOf] using toInt_ofInt_rawOf (.s24 L)
  · simpa [hL, rawOf] using toInt_ofInt_rawOf (.b16 L)
  · simp [scale, -BitVec.toInt_ofInt, toInt_ofInt_rawOf]
  · simp [flagsAfter, flagPosition, WFlags.word_setVec]

end Sys2Proof.Machine

/-! ## Patterns and the numbers they stand for (42_scale.md R171)

Every finite value is a number of 53 significant bits, and a normal one is written as its sign, its exponent field and
its significand added up. -/

namespace Sys2Proof.Machine

/-! The fields of a pattern built from its sign and its other 63 bits (R171). -/

theorem toNat_withSign (b : Bool) {n : Nat} (h : n < 2 ^ 63) :
    (withSign b n).toNat = (if b then 2 ^ 63 else 0) + n := by
  rw [withSign, BitVec.toNat_ofNat]
  split <;> omega

theorem fpSign_withSign (b : Bool) {n : Nat} (h : n < 2 ^ 63) : fpSign (withSign b n) = b := by
  rw [fpSign, BitVec.msb_eq_decide, toNat_withSign b h]
  cases b
  · simpa using h
  · simp

theorem fpExponent_withSign (b : Bool) {n : Nat} (h : n < 2 ^ 63) : fpExponent (withSign b n) = n / 2 ^ 52 := by
  rw [fpExponent, BitVec.extractLsb'_toNat, toNat_withSign b h, Nat.shiftRight_eq_div_pow]
  split <;> omega

theorem fpFraction_withSign (b : Bool) {n : Nat} (h : n < 2 ^ 63) : fpFraction (withSign b n) = n % 2 ^ 52 := by
  rw [fpFraction, BitVec.extractLsb'_toNat, toNat_withSign b h, Nat.shiftRight_zero]
  split <;> omega

theorem fpFraction_lt (v : Word64) : fpFraction v < 2 ^ 52 := (v.extractLsb' 0 52).isLt

theorem fpExponent_lt (v : Word64) : fpExponent v < 2 ^ 11 := (v.extractLsb' 52 11).isLt

/-- All that a pattern can stand for, by its exponent field (R171). -/
theorem fpKind_cases (v : Word64) :
    (fpExponent v = 2047 ∧ (fpKind v = .infinite ∨ fpKind v = .nan)) ∨
    (fpExponent v = 0 ∧ (fpKind v = .zero ∨ fpKind v = .finite (fpFraction v) (-1074))) ∨
    (1 ≤ fpExponent v ∧ fpExponent v ≤ 2046 ∧
      fpKind v = .finite (2 ^ 52 + fpFraction v) ((fpExponent v : Int) - 1075)) := by
  have hlt := fpExponent_lt v
  unfold fpKind
  split
  next htop =>
    split
    · exact .inl ⟨htop, .inl rfl⟩
    · exact .inl ⟨htop, .inr rfl⟩
  next htop =>
    split
    next hbottom =>
      split
      · exact .inr (.inl ⟨hbottom, .inl rfl⟩)
      · exact .inr (.inl ⟨hbottom, .inr rfl⟩)
    next hbottom => exact .inr (.inr ⟨by omega, by omega, rfl⟩)

theorem significand_lt {v : Word64} {m : Nat} {e : Int} (h : fpKind v = .finite m e) : m < 2 ^ 53 := by
  have hlt := fpFraction_lt v
  obtain ⟨-, hk | hk⟩ | ⟨-, hk | hk⟩ | ⟨-, -, hk⟩ := fpKind_cases v <;> rw [hk] at h <;> cases h <;> omega

theorem fpExponent_of_normal {v : Word64} {m : Nat} {e : Int} (h : fpKind v = .finite m e) (hm : 2 ^ 52 ≤ m) :
    1 ≤ fpExponent v ∧ fpExponent v ≤ 2046 := by
  have hlt := fpFraction_lt v
  obtain ⟨-, hk | hk⟩ | ⟨-, hk | hk⟩ | ⟨hlow, hhigh, -⟩ := fpKind_cases v
  · cases hk.symm.trans h
  · cases hk.symm.trans h
  · cases hk.symm.trans h
  · cases hk.symm.trans h
    omega
  · exact ⟨hlow, hhigh⟩

/-! Numbers of 53 significant bits: every finite binary64 value is one (R171). -/

/-- At most 53 significant bits, at any exponent. -/
def HasBits53 (q : ℚ) : Prop := ∃ z e : ℤ, z.natAbs < 2 ^ 53 ∧ q = z * 2 ^ e

/-- The sign of a pattern as a factor of its value (R171). -/
def signFactor (negative : Bool) : ℚ := if negative then -1 else 1

@[simp] theorem abs_signFactor (b : Bool) : |signFactor b| = 1 := by
  cases b <;> simp [signFactor]

theorem signFactor_mul_self (b : Bool) : signFactor b * signFactor b = 1 := by
  cases b <;> simp [signFactor]

theorem signFactor_xor (b c : Bool) : signFactor (b ^^ c) = signFactor b / signFactor c := by
  cases b <;> cases c <;> simp [signFactor]

theorem signFactor_mul_natAbs (i : ℤ) : signFactor (decide (i < 0)) * (i.natAbs : ℚ) = i := by
  by_cases h : i < 0
  · simp [signFactor, h, abs_of_neg]
  · simp [signFactor, h, abs_of_nonneg (not_lt.mp h)]

theorem HasBits53.signFactor_mul {q : ℚ} (h : HasBits53 q) (b : Bool) : HasBits53 (signFactor b * q) := by
  obtain ⟨z, e, hz, rfl⟩ := h
  cases b
  · exact ⟨z, e, hz, by simp [signFactor]⟩
  · exact ⟨-z, e, by simpa using hz, by simp [signFactor]⟩

theorem hasBits53_intCast {i : ℤ} (h : i.natAbs < 2 ^ 53) : HasBits53 i := ⟨i, 0, h, by simp⟩

theorem hasBits53_two_zpow (e : ℤ) : HasBits53 (2 ^ e) := ⟨1, e, by decide, by simp⟩

theorem hasBits53_of_fpValue {v : Word64} {q : ℚ} (h : fpValue v = some q) : HasBits53 q := by
  unfold fpValue at h
  split at h
  next => cases h; exact ⟨0, 0, by decide, by simp⟩
  next m e hk =>
    cases h
    rw [mul_assoc]
    exact HasBits53.signFactor_mul ⟨m, e, significand_lt hk, by simp⟩ _
  next => cases h
  next => cases h

/-- From `2^(e + 52)` up the numbers of 53 bits are multiples of `2^e`. -/
theorem HasBits53.eq_mul_two_zpow {q : ℚ} (h : HasBits53 q) {e : ℤ} (hq : 2 ^ (e + 52) ≤ q) :
    ∃ z : ℤ, q = z * 2 ^ e := by
  obtain ⟨z, f, hz, rfl⟩ := h
  have hz' : (z : ℚ) < 2 ^ 53 := by
    have hzInt : z < 2 ^ 53 := by omega
    exact_mod_cast hzInt
  have hlt : (2 : ℚ) ^ (e + 52) < 2 ^ (53 + f) := by
    rw [zpow_add₀ two_ne_zero 53]
    exact hq.trans_lt (mul_lt_mul_of_pos_right hz' (by positivity))
  have hef : e ≤ f := by
    have hexp := (zpow_lt_zpow_iff_right₀ one_lt_two).mp hlt
    omega
  refine ⟨z * 2 ^ (f - e).toNat, ?_⟩
  push_cast
  rw [mul_assoc, ← zpow_natCast, ← zpow_add₀ two_ne_zero, Int.toNat_of_nonneg (by omega), sub_add_cancel]

/-! Normal numbers. -/

/-- The pattern is a normal number (R171) of this sign and this magnitude. -/
structure ReadsNormal (v : Word64) (negative : Bool) (x : ℚ) : Prop where
  sign : fpSign v = negative
  kind : ∃ m e, fpKind v = .finite m e ∧ 2 ^ 52 ≤ m ∧ (m : ℚ) * 2 ^ e = x

namespace ReadsNormal

variable {v : Word64} {b : Bool} {x : ℚ}

theorem value (h : ReadsNormal v b x) : fpValue v = some (signFactor b * x) := by
  obtain ⟨m, e, hk, -, rfl⟩ := h.kind
  rw [← mul_assoc, ← h.sign]
  simp only [fpValue, hk, signFactor]

theorem pos (h : ReadsNormal v b x) : 0 < x := by
  obtain ⟨m, e, -, hm, rfl⟩ := h.kind
  have hm' : (0 : ℚ) < m := Nat.cast_pos.mpr (by omega)
  positivity

theorem exponent (h : ReadsNormal v b x) : 1 ≤ fpExponent v ∧ fpExponent v ≤ 2046 := by
  obtain ⟨m, e, hk, hm, -⟩ := h.kind
  exact fpExponent_of_normal hk hm

end ReadsNormal

/-- The exponent field and a significand added up, as `roundMagnitude` does; at `k = 2^53` the carry moves the
exponent. -/
theorem readsNormal_withSign (b : Bool) {E k : Nat} (hE : E ≤ 2044) (hlow : 2 ^ 52 ≤ k) (hhigh : k ≤ 2 ^ 53) :
    ReadsNormal (withSign b (E * 2 ^ 52 + k)) b (k * 2 ^ ((E : ℤ) - 1074)) := by
  have hfit : E * 2 ^ 52 + k < 2 ^ 63 := by omega
  refine ⟨fpSign_withSign b hfit, ?_⟩
  have hexp := fpExponent_withSign b hfit
  have hfrac := fpFraction_withSign b hfit
  obtain ⟨htop, -⟩ | ⟨hbottom, -⟩ | ⟨-, -, hk⟩ := fpKind_cases (withSign b (E * 2 ^ 52 + k))
  · omega
  · omega
  refine ⟨_, _, hk, by omega, ?_⟩
  rw [hexp, hfrac]
  obtain hlt | rfl := hhigh.lt_or_eq
  · rw [show (E * 2 ^ 52 + k) / 2 ^ 52 = E + 1 by omega, show 2 ^ 52 + (E * 2 ^ 52 + k) % 2 ^ 52 = k by omega]
    congr 2
    push_cast
    ring
  · rw [show (E * 2 ^ 52 + 2 ^ 53) / 2 ^ 52 = E + 2 by omega,
      show 2 ^ 52 + (E * 2 ^ 52 + 2 ^ 53) % 2 ^ 52 = 2 ^ 52 by omega,
      show (((E + 2 : ℕ) : ℤ) - 1075) = 1 + ((E : ℤ) - 1074) by push_cast; ring, zpow_add₀ two_ne_zero]
    push_cast
    ring

end Sys2Proof.Machine

/-! ## Rounding (42_scale.md R173, R174, R183)

In units of the last place the exact ratio lies between `2^52` and `2^53`, where every number of 53 bits is an integer;
so the nearest integer gives the nearest number. The ratios of register contents are of normal size and never a tie. -/

namespace Sys2Proof.Machine

/-! Powers of two and the logarithm of a ratio. -/

theorem two_zpow_eq_div (e : ℤ) : (2 : ℚ) ^ e = 2 ^ e.toNat / 2 ^ (-e).toNat := by
  conv_lhs => rw [← Int.toNat_sub_toNat_neg e]
  rw [zpow_sub₀ two_ne_zero, zpow_natCast, zpow_natCast]

theorem ratioLog2_spec {num den : Nat} (hnum : 0 < num) (hden : 0 < den) :
    (2 : ℚ) ^ ratioLog2 num den ≤ num / den ∧ (num / den : ℚ) < 2 ^ (ratioLog2 num den + 1) := by
  have hden' : (0 : ℚ) < den := Nat.cast_pos.mpr hden
  have hnumLow : (2 : ℚ) ^ num.log2 ≤ num := mod_cast Nat.log2_self_le hnum.ne'
  have hnumHigh : (num : ℚ) < 2 ^ (num.log2 + 1) := mod_cast Nat.lt_log2_self
  have hdenLow : (2 : ℚ) ^ den.log2 ≤ den := mod_cast Nat.log2_self_le hden.ne'
  have hdenHigh : (den : ℚ) < 2 ^ (den.log2 + 1) := mod_cast Nat.lt_log2_self
  set k : Int := (num.log2 : Int) - (den.log2 : Int) with hk
  have hpow (i j : Nat) : (2 : ℚ) ^ ((i : ℤ) - j) = 2 ^ i / 2 ^ j := by
    rw [zpow_sub₀ two_ne_zero, zpow_natCast, zpow_natCast]
  have habove : (num / den : ℚ) < 2 ^ (k + 1) := by
    rw [show k + 1 = ((num.log2 + 1 : ℕ) : ℤ) - den.log2 by omega, hpow]
    exact div_lt_div₀ hnumHigh hdenLow (by positivity) (by positivity)
  have hbelow : (2 : ℚ) ^ (k - 1) ≤ num / den := by
    rw [show k - 1 = (num.log2 : ℤ) - (den.log2 + 1 : ℕ) by omega, hpow]
    exact div_le_div₀ (by positivity) hnumLow hden' hdenHigh.le
  have htest : den * 2 ^ k.toNat ≤ num * 2 ^ (-k).toNat ↔ (2 : ℚ) ^ k ≤ num / den := by
    rw [two_zpow_eq_div, div_le_div_iff₀ (by positivity) hden', mul_comm den]
    exact_mod_cast Iff.rfl
  simp only [ratioLog2, ← hk, htest]
  split
  next hle => exact ⟨hle, habove⟩
  next hlt => exact ⟨hbelow, by simpa using hlt⟩

/-! The nearest integer (R173), with no tie. -/

theorem abs_nearestEven_sub_lt {n d : Nat} (hd : 0 < d) (htie : 2 * (n % d) ≠ d) :
    |(nearestEven n d : ℚ) - n / d| < 1 / 2 := by
  have hd' : (0 : ℚ) < d := Nat.cast_pos.mpr hd
  have hsplit : (n : ℚ) / d = (n / d : ℕ) + (n % d : ℕ) / d := by
    rw [div_eq_iff hd'.ne', add_mul, div_mul_cancel₀ _ hd'.ne']
    exact_mod_cast (Nat.div_add_mod' n d).symm
  have hlt : ((n % d : ℕ) : ℚ) / d < 1 := (div_lt_one hd').mpr (mod_cast Nat.mod_lt n hd)
  have hnonneg : 0 ≤ ((n % d : ℕ) : ℚ) / d := by positivity
  have hhalf : 2 * (n % d) < d ↔ ((n % d : ℕ) : ℚ) / d < 1 / 2 := by
    rw [div_lt_div_iff₀ hd' two_pos, mul_comm 2, one_mul]
    exact_mod_cast Iff.rfl
  rw [hsplit, nearestEven, abs_lt]
  split
  next hdown =>
    have hlow := hhalf.mp (by omega)
    constructor <;> linarith
  next hup =>
    have hne : ((n % d : ℕ) : ℚ) / d ≠ 1 / 2 := fun h => by
      rw [div_eq_div_iff hd'.ne' two_ne_zero, one_mul] at h
      exact htie (by rw [mul_comm]; exact_mod_cast h)
    have hhigh := lt_of_le_of_ne (not_lt.mp fun h => hup (.inl (hhalf.mpr h))) hne.symm
    push_cast
    constructor <;> linarith

theorem nearestEven_strictly_nearest {n d : Nat} (hd : 0 < d) (htie : 2 * (n % d) ≠ d) {z : ℤ}
    (hz : z ≠ nearestEven n d) : |(nearestEven n d : ℚ) - n / d| < |(z : ℚ) - n / d| := by
  have hhalf := abs_nearestEven_sub_lt hd htie
  have hone : (1 : ℚ) ≤ |(z : ℚ) - nearestEven n d| := by
    have h := Int.one_le_abs (sub_ne_zero.mpr hz)
    exact_mod_cast h
  have htriangle := abs_sub_le (z : ℚ) (n / d) (nearestEven n d)
  rw [abs_sub_comm (n / d : ℚ)] at htriangle
  linarith

theorem nearestEven_between {n d a b : Nat} (hd : 0 < d) (hlow : a * d ≤ n) (hhigh : n < b * d) :
    a ≤ nearestEven n d ∧ nearestEven n d ≤ b := by
  have hquotLow : a ≤ n / d := (Nat.le_div_iff_mul_le hd).mpr hlow
  have hquotHigh : n / d < b := (Nat.div_lt_iff_lt_mul hd).mpr hhigh
  rw [nearestEven]
  split <;> omega

/-! Rounding in the normal range: the significand is the nearest integer to the ratio in units of the last place. -/

/-- The exponent of the unit in the last place of a normal result. -/
def unitExponent (num den : Nat) : ℤ := ratioLog2 num den - 52

/-- The ratio in units of the last place: above the fraction bar. -/
def scaledNum (num den : Nat) : Nat := num * 2 ^ (-unitExponent num den).toNat

/-- The ratio in units of the last place: below the fraction bar. -/
def scaledDen (num den : Nat) : Nat := den * 2 ^ (unitExponent num den).toNat

/-- The significand of a normal result; it is `2^53` where rounding carries. -/
def roundedSignificand (num den : Nat) : Nat := nearestEven (scaledNum num den) (scaledDen num den)

/-- The magnitude of a normal result. -/
def roundedValue (num den : Nat) : ℚ := roundedSignificand num den * 2 ^ unitExponent num den

/-- `r` is nearer to `x` than every other number of 53 significant bits. -/
def StrictlyNearest (r x : ℚ) : Prop := ∀ q, HasBits53 q → q ≠ r → |r - x| < |q - x|

theorem StrictlyNearest.eq_of_hasBits53 {r x : ℚ} (h : StrictlyNearest r x) (hx : HasBits53 x) : r = x := by
  by_contra hne
  have hlt := h x hx (Ne.symm hne)
  rw [sub_self, abs_zero] at hlt
  exact absurd hlt (abs_nonneg _).not_gt

theorem StrictlyNearest.ge_of_hasBits53 {r x q : ℚ} (h : StrictlyNearest r x) (hq : HasBits53 q) (hx : q ≤ x) :
    q ≤ r := by
  by_contra! hlt
  have hnear := h q hq hlt.ne'
  rw [abs_of_neg (by linarith), abs_of_nonpos (by linarith)] at hnear
  linarith

theorem StrictlyNearest.le_of_hasBits53 {r x q : ℚ} (h : StrictlyNearest r x) (hq : HasBits53 q) (hx : x ≤ q) :
    r ≤ q := by
  by_contra! hlt
  have hnear := h q hq hlt.ne
  rw [abs_of_pos (by linarith), abs_of_nonneg (by linarith)] at hnear
  linarith

section Rounding

variable {num den : Nat} (hnum : 0 < num) (hden : 0 < den)

include hden

theorem scaledDen_pos : 0 < scaledDen num den := Nat.mul_pos hden (Nat.two_pow_pos _)

theorem ratio_eq_scaled : (num / den : ℚ) = scaledNum num den / scaledDen num den * 2 ^ unitExponent num den := by
  have hden' : (den : ℚ) ≠ 0 := Nat.cast_ne_zero.mpr hden.ne'
  rw [two_zpow_eq_div, scaledNum, scaledDen]
  push_cast
  field_simp

include hnum

theorem ratio_between :
    (2 : ℚ) ^ (unitExponent num den + 52) ≤ num / den ∧ (num / den : ℚ) < 2 ^ (unitExponent num den + 53) := by
  obtain ⟨hlow, hhigh⟩ := ratioLog2_spec hnum hden
  rw [unitExponent, show ratioLog2 num den - 52 + 52 = ratioLog2 num den by ring,
    show ratioLog2 num den - 52 + 53 = ratioLog2 num den + 1 by ring]
  exact ⟨hlow, hhigh⟩

theorem scaled_between : 2 ^ 52 * scaledDen num den ≤ scaledNum num den ∧
    scaledNum num den < 2 ^ 53 * scaledDen num den := by
  have hunit : (0 : ℚ) < 2 ^ unitExponent num den := by positivity
  have hden' : (0 : ℚ) < scaledDen num den := Nat.cast_pos.mpr (scaledDen_pos hden)
  obtain ⟨hlow, hhigh⟩ := ratio_between hnum hden
  rw [ratio_eq_scaled hden, add_comm, zpow_add₀ two_ne_zero, mul_le_mul_iff_left₀ hunit, le_div_iff₀ hden'] at hlow
  rw [ratio_eq_scaled hden, add_comm, zpow_add₀ two_ne_zero, mul_lt_mul_iff_left₀ hunit, div_lt_iff₀ hden'] at hhigh
  exact ⟨mod_cast hlow, mod_cast hhigh⟩

theorem roundedSignificand_between : 2 ^ 52 ≤ roundedSignificand num den ∧ roundedSignificand num den ≤ 2 ^ 53 := by
  obtain ⟨hlow, hhigh⟩ := scaled_between hnum hden
  exact nearestEven_between (scaledDen_pos hden) hlow hhigh

/-- In the normal range no clause of `roundMagnitude` for subnormals or infinity applies. -/
theorem readsNormal_roundMagnitude (b : Bool) (hlow : (2 : ℚ) ^ (-1022 : ℤ) ≤ num / den)
    (hhigh : (num / den : ℚ) < 2 ^ (1023 : ℤ)) :
    ReadsNormal (withSign b (roundMagnitude num den)) b (roundedValue num den) := by
  obtain ⟨hratioLow, hratioHigh⟩ := ratio_between hnum hden
  obtain ⟨hsigLow, hsigHigh⟩ := roundedSignificand_between hnum hden
  have hunitLow : -1022 < unitExponent num den + 53 :=
    (zpow_lt_zpow_iff_right₀ one_lt_two).mp (hlow.trans_lt hratioHigh)
  have hunitHigh : unitExponent num den + 52 < 1023 :=
    (zpow_lt_zpow_iff_right₀ one_lt_two).mp (hratioLow.trans_lt hhigh)
  have hmagnitude : roundMagnitude num den
      = (unitExponent num den + 1074).toNat * 2 ^ 52 + roundedSignificand num den := by
    have hmax : max (ratioLog2 num den - 52) (-1074) = unitExponent num den :=
      max_eq_left (show -1074 ≤ unitExponent num den by omega)
    simp only [roundMagnitude, hmax]
    exact min_eq_left (by change _ * _ + roundedSignificand num den ≤ _; omega)
  have hreads := readsNormal_withSign b (E := (unitExponent num den + 1074).toNat) (by omega) hsigLow hsigHigh
  rwa [Int.toNat_of_nonneg (by omega), add_sub_cancel_right, ← hmagnitude] at hreads

omit hnum in
theorem abs_mul_unit_sub_ratio (a : ℚ) : |a * 2 ^ unitExponent num den - num / den|
    = |a - scaledNum num den / scaledDen num den| * 2 ^ unitExponent num den := by
  rw [ratio_eq_scaled hden, ← sub_mul, abs_mul, abs_of_pos (a := (2 : ℚ) ^ unitExponent num den) (by positivity)]

variable (htie : 2 * (scaledNum num den % scaledDen num den) ≠ scaledDen num den)

include htie

omit hnum in
/-- Among the multiples of the unit in the last place the rounded value is the nearest, unless there is a tie. -/
theorem roundedValue_nearer_than_multiple {z : ℤ} (hz : z ≠ roundedSignificand num den) :
    |roundedValue num den - num / den| < |(z : ℚ) * 2 ^ unitExponent num den - num / den| := by
  rw [roundedValue, abs_mul_unit_sub_ratio hden, abs_mul_unit_sub_ratio hden]
  exact mul_lt_mul_of_pos_right (nearestEven_strictly_nearest (scaledDen_pos hden) htie hz) (by positivity)

/-- R174: no other number of 53 bits is as near. From `2^52` units up these are multiples of the unit, and those below
lie farther than `2^52` units, which is a multiple. -/
theorem strictlyNearest_roundedValue : StrictlyNearest (roundedValue num den) (num / den) := by
  intro q hq hne
  by_cases hlarge : (2 : ℚ) ^ (unitExponent num den + 52) ≤ q
  · obtain ⟨z, rfl⟩ := hq.eq_mul_two_zpow hlarge
    refine roundedValue_nearer_than_multiple hden htie fun hz => hne ?_
    rw [roundedValue, hz, Int.cast_natCast]
  · have hratio := (ratio_between hnum hden).1
    have hfloor : (2 : ℚ) ^ (unitExponent num den + 52) = (2 ^ 52 : ℤ) * 2 ^ unitExponent num den := by
      rw [add_comm, zpow_add₀ two_ne_zero]
      push_cast
      rfl
    have hnear : |roundedValue num den - num / den| ≤ |2 ^ (unitExponent num den + 52) - (num / den : ℚ)| := by
      rw [hfloor]
      by_cases hz : (2 ^ 52 : ℤ) = roundedSignificand num den
      · rw [hz, roundedValue, Int.cast_natCast]
      · exact (roundedValue_nearer_than_multiple hden htie hz).le
    rw [abs_of_nonpos (sub_nonpos.mpr hratio)] at hnear
    rw [abs_of_neg (a := q - num / den) (by linarith)]
    linarith

end Rounding

/-- R177: a ratio of register contents lies in the normal range. -/
theorem ratio_in_normal_range {p y : Nat} (hp : 0 < p) (hpHigh : p < 2 ^ 53) (hy : 0 < y) (hyHigh : y ≤ 2 ^ 31) :
    (2 : ℚ) ^ (-1022 : ℤ) ≤ p / y ∧ (p / y : ℚ) < 2 ^ (1023 : ℤ) := by
  have hp1 : (1 : ℚ) ≤ p := mod_cast hp
  have hy1 : (1 : ℚ) ≤ y := mod_cast hy
  have hy31 : (y : ℚ) ≤ 2 ^ 31 := mod_cast hyHigh
  constructor
  · calc (2 : ℚ) ^ (-1022 : ℤ) ≤ 2 ^ (-31 : ℤ) := zpow_le_zpow_right₀ one_le_two (by decide)
      _ = 1 / 2 ^ 31 := by norm_num
      _ ≤ p / y := div_le_div₀ (by positivity) hp1 (by positivity) hy31
  · calc (p / y : ℚ) ≤ p := div_le_self (by positivity) hy1
      _ < 2 ^ (53 : ℤ) := mod_cast hpHigh
      _ < 2 ^ (1023 : ℤ) := zpow_lt_zpow_right₀ one_lt_two (by decide)

section Registers

variable {num den p y : Nat} (hnum : 0 < num) (hden : 0 < den) (hratio : (num / den : ℚ) = p / y) (hp : p < 2 ^ 53)
  (hy : 0 < y)

include hnum hden hratio hy

omit hnum in
theorem cross_mul_eq : num * y = p * den := by
  rw [div_eq_div_iff (Nat.cast_ne_zero.mpr hden.ne') (Nat.cast_ne_zero.mpr hy.ne')] at hratio
  exact_mod_cast hratio

theorem numerator_pos : 0 < p :=
  Nat.pos_of_mul_pos_right (cross_mul_eq hden hratio hy ▸ Nat.mul_pos hnum hy)

include hp

/-- R183: a tie would make an odd number of 54 bits divide `p`. -/
theorem not_tie : 2 * (scaledNum num den % scaledDen num den) ≠ scaledDen num den := by
  intro htie
  set k := scaledNum num den / scaledDen num den with hk
  have hlarge : 2 ^ 52 ≤ k := (Nat.le_div_iff_mul_le (scaledDen_pos hden)).mpr (scaled_between hnum hden).1
  have hhalf : 2 * scaledNum num den = (2 * k + 1) * scaledDen num den := by
    have hsplit := Nat.div_add_mod' (scaledNum num den) (scaledDen num den)
    rw [← hk] at hsplit
    linarith
  have hdvd : 2 * k + 1 ∣ p * 2 ^ ((-unitExponent num den).toNat + 1) := by
    refine ⟨2 ^ (unitExponent num den).toNat * y, Nat.eq_of_mul_eq_mul_right hden ?_⟩
    rw [scaledNum, scaledDen] at hhalf
    calc p * 2 ^ ((-unitExponent num den).toNat + 1) * den
        = 2 * (num * 2 ^ (-unitExponent num den).toNat) * y := by
          rw [mul_right_comm, ← cross_mul_eq hden hratio hy, pow_succ]
          ring
      _ = (2 * k + 1) * (2 ^ (unitExponent num den).toNat * y) * den := by
          rw [hhalf]
          ring
  have hodd : Nat.Coprime (2 * k + 1) (2 ^ ((-unitExponent num den).toNat + 1)) := Nat.Coprime.pow_right _ (by simp)
  have hle := Nat.le_of_dvd (numerator_pos hnum hden hratio hy) (hodd.dvd_of_dvd_mul_right hdvd)
  omega

/-- The rounding of a ratio of register contents is a normal number and the nearest one. -/
theorem rounded_ratio (b : Bool) (hyHigh : y ≤ 2 ^ 31) :
    ∃ r, ReadsNormal (withSign b (roundMagnitude num den)) b r ∧ StrictlyNearest r (p / y) := by
  obtain ⟨hlow, hhigh⟩ := ratio_in_normal_range (numerator_pos hnum hden hratio hy) hp hy hyHigh
  rw [← hratio] at hlow hhigh ⊢
  exact ⟨_, readsNormal_roundMagnitude hnum hden b hlow hhigh,
    strictlyNearest_roundedValue hnum hden (not_tie hnum hden hratio hp hy)⟩

end Registers

/-- An integer below `2^53` is its own rounding. -/
theorem readsNormal_of_ratio_eq_natCast {num den p : Nat} (hnum : 0 < num) (hden : 0 < den)
    (hratio : (num / den : ℚ) = p) (hp : p < 2 ^ 53) (b : Bool) :
    ReadsNormal (withSign b (roundMagnitude num den)) b p := by
  have hratio' : (num / den : ℚ) = p / (1 : ℕ) := by rw [hratio, Nat.cast_one, div_one]
  obtain ⟨r, hreads, hnearest⟩ := rounded_ratio hnum hden hratio' hp one_pos b (by decide)
  rw [Nat.cast_one, div_one] at hnearest
  have hr := hnearest.eq_of_hasBits53 (hasBits53_intCast (i := p) (by simpa using hp))
  rwa [hr] at hreads

end Sys2Proof.Machine

/-! ## Conversion, product and quotient (42_scale.md R172 to R179)

Each operation on normal numbers rounds an exact ratio once, and on zeros it looks at the signs alone. -/

namespace Sys2Proof.Machine

/-! Conversion (R172). -/

theorem fpSign_fpZero (b : Bool) : fpSign (fpZero b) = b := fpSign_withSign b (by decide)

theorem fpKind_fpZero (b : Bool) : fpKind (fpZero b) = .zero := by
  cases b <;> decide

theorem fpValue_of_zero {v : Word64} (h : fpKind v = .zero) : fpValue v = some 0 := by
  simp only [fpValue, h]

theorem readsNormal_fp {i : ℤ} (hi : i ≠ 0) (hlt : i.natAbs < 2 ^ 53) :
    ReadsNormal (fp i) (decide (i < 0)) i.natAbs := by
  rw [fp, if_neg hi]
  exact readsNormal_of_ratio_eq_natCast (Int.natAbs_pos.mpr hi) one_pos (by simp) hlt _

theorem fpSign_fp {i : ℤ} (hlt : i.natAbs < 2 ^ 53) : fpSign (fp i) = decide (i < 0) := by
  obtain rfl | hi := eq_or_ne i 0
  · exact fpSign_fpZero false
  · exact (readsNormal_fp hi hlt).sign

theorem fpKind_fp_zero : fpKind (fp 0) = .zero := fpKind_fpZero false

theorem fpValue_fp {i : ℤ} (hlt : i.natAbs < 2 ^ 53) : fpValue (fp i) = some (i : ℚ) := by
  obtain rfl | hi := eq_or_ne i 0
  · exact fpValue_of_zero fpKind_fp_zero
  · rw [(readsNormal_fp hi hlt).value, signFactor_mul_natAbs]

/-- Settles O48: an integer of 53 bits is its own rounding. -/
theorem conversionIsExact : Obligations.ConversionIsExact :=
  ⟨rfl, fun _ => fpValue_fp⟩

/-! Product and quotient of converted integers (R172, R173). -/

theorem above_div_below (m : Nat) (e : ℤ) : (above m e / below e : ℚ) = m * 2 ^ e := by
  rw [two_zpow_eq_div, above, below]
  push_cast
  ring

theorem above_pos {m : Nat} (h : 2 ^ 52 ≤ m) (e : ℤ) : 0 < above m e :=
  Nat.mul_pos (by omega) (Nat.two_pow_pos _)

theorem below_pos (e : ℤ) : 0 < below e := Nat.two_pow_pos _

section Kinds

variable {v w : Word64} {b c : Bool}

theorem readsNormal_fmul {x y : ℚ} {p : Nat} (hv : ReadsNormal v b x) (hw : ReadsNormal w c y) (hxy : x * y = p)
    (hp : p < 2 ^ 53) (nanBits : Word64) : ReadsNormal (fmul nanBits v w) (b ^^ c) p := by
  obtain ⟨m, e, hkv, hm, rfl⟩ := hv.kind
  obtain ⟨n, f, hkw, hn, rfl⟩ := hw.kind
  simp only [fmul, hkv, hkw, hv.sign, hw.sign]
  refine readsNormal_of_ratio_eq_natCast (Nat.mul_pos (above_pos hm e) (above_pos hn f))
    (Nat.mul_pos (below_pos e) (below_pos f)) ?_ hp _
  rw [← hxy, ← above_div_below, ← above_div_below, div_mul_div_comm, Nat.cast_mul, Nat.cast_mul]

theorem readsNormal_fdiv {p y : Nat} (hv : ReadsNormal v b p) (hw : ReadsNormal w c y) (hp : p < 2 ^ 53)
    (hy : y ≤ 2 ^ 31) (nanBits : Word64) :
    ∃ r, ReadsNormal (fdiv nanBits v w) (b ^^ c) r ∧ StrictlyNearest r (p / y) := by
  obtain ⟨m, e, hkv, hm, hvalue⟩ := hv.kind
  obtain ⟨n, f, hkw, hn, hvalue'⟩ := hw.kind
  simp only [fdiv, hkv, hkw, hv.sign, hw.sign]
  refine rounded_ratio (Nat.mul_pos (above_pos hm e) (below_pos f)) (Nat.mul_pos (above_pos hn f) (below_pos e)) ?_ hp
    (Nat.cast_pos.mp hw.pos) _ hy
  rw [← hvalue, ← hvalue', ← above_div_below, ← above_div_below, div_div_div_eq, Nat.cast_mul, Nat.cast_mul,
    mul_comm (below e : ℚ)]

theorem fmul_normal_zero {x : ℚ} (hv : ReadsNormal v b x) (hw : fpKind w = .zero) (nanBits : Word64) :
    fmul nanBits v w = fpZero (b ^^ fpSign w) := by
  obtain ⟨m, e, hkv, -⟩ := hv.kind
  simp only [fmul, hkv, hw, hv.sign]

theorem fmul_zero_normal {x : ℚ} (hv : fpKind v = .zero) (hw : ReadsNormal w c x) (nanBits : Word64) :
    fmul nanBits v w = fpZero (fpSign v ^^ c) := by
  obtain ⟨m, e, hkw, -⟩ := hw.kind
  simp only [fmul, hkw, hv, hw.sign]

theorem fmul_zero_zero (hv : fpKind v = .zero) (hw : fpKind w = .zero) (nanBits : Word64) :
    fmul nanBits v w = fpZero (fpSign v ^^ fpSign w) := by
  simp only [fmul, hv, hw]

theorem fdiv_normal_zero {x : ℚ} (hv : ReadsNormal v b x) (hw : fpKind w = .zero) (nanBits : Word64) :
    fdiv nanBits v w = fpInfinity (b ^^ fpSign w) := by
  obtain ⟨m, e, hkv, -⟩ := hv.kind
  simp only [fdiv, hkv, hw, hv.sign]

theorem fdiv_zero_normal {x : ℚ} (hv : fpKind v = .zero) (hw : ReadsNormal w c x) (nanBits : Word64) :
    fdiv nanBits v w = fpZero (fpSign v ^^ c) := by
  obtain ⟨m, e, hkw, -⟩ := hw.kind
  simp only [fdiv, hkw, hv, hw.sign]

theorem fdiv_zero_zero (hv : fpKind v = .zero) (hw : fpKind w = .zero) (nanBits : Word64) :
    fdiv nanBits v w = nanBits := by
  simp only [fdiv, hv, hw]

end Kinds

/-! The product of two converted integers (R172, R176). -/

section Product

variable {i j : ℤ}

theorem decide_mul_neg (h : i * j ≠ 0) : decide (i * j < 0) = (decide (i < 0) ^^ decide (j < 0)) := by
  obtain ⟨hi, hj⟩ := mul_ne_zero_iff.mp h
  obtain hi | hi := hi.lt_or_gt
  · have hflip : decide (0 < j) = !decide (j < 0) := by
      rw [← decide_not, decide_eq_decide]
      omega
    simp [mul_neg_iff, hi, hi.not_gt, hflip]
  · simp [mul_neg_iff, hi, hi.not_gt]

theorem readsNormal_product (h : i * j ≠ 0) (hlt : (i * j).natAbs < 2 ^ 53) (nanBits : Word64) :
    ReadsNormal (fmul nanBits (fp i) (fp j)) (decide (i < 0) ^^ decide (j < 0)) (i * j).natAbs := by
  obtain ⟨hi, hj⟩ := mul_ne_zero_iff.mp h
  rw [Int.natAbs_mul] at hlt
  have hiLt := (Nat.le_mul_of_pos_right i.natAbs (Int.natAbs_pos.mpr hj)).trans_lt hlt
  have hjLt := (Nat.le_mul_of_pos_left j.natAbs (Int.natAbs_pos.mpr hi)).trans_lt hlt
  rw [Int.natAbs_mul]
  exact readsNormal_fmul (readsNormal_fp hi hiLt) (readsNormal_fp hj hjLt) (Nat.cast_mul _ _).symm hlt nanBits

theorem fmul_fp_of_mul_eq_zero (h : i * j = 0) (hi : i.natAbs < 2 ^ 53) (hj : j.natAbs < 2 ^ 53) (nanBits : Word64) :
    fmul nanBits (fp i) (fp j) = fpZero (decide (i < 0) ^^ decide (j < 0)) := by
  obtain rfl | hi0 := eq_or_ne i 0
  · obtain rfl | hj0 := eq_or_ne j 0
    · exact fmul_zero_zero fpKind_fp_zero fpKind_fp_zero nanBits
    · exact fmul_zero_normal fpKind_fp_zero (readsNormal_fp hj0 hj) nanBits
  · obtain rfl := (mul_eq_zero_iff_left hi0).mp h
    exact fmul_normal_zero (readsNormal_fp hi0 hi) fpKind_fp_zero nanBits

end Product

/-! The contents of the registers (R176). -/

theorem natAbs_toInt_le {w : Nat} (x : BitVec (w + 1)) : x.toInt.natAbs ≤ 2 ^ w := by
  have hhigh := BitVec.two_mul_toInt_lt (x := x)
  have hlow := BitVec.le_two_mul_toInt (x := x)
  rw [pow_succ] at hhigh hlow
  have hcast : ((2 ^ w : ℕ) : ℤ) = 2 ^ w := Nat.cast_pow 2 w
  omega

theorem natAbs_product_le (raw : BitVec 24) (m : BitVec 16) : (raw.toInt * m.toInt).natAbs ≤ 2 ^ 38 := by
  rw [Int.natAbs_mul, show 2 ^ 38 = 2 ^ 23 * 2 ^ 15 by decide]
  exact Nat.mul_le_mul (natAbs_toInt_le raw) (natAbs_toInt_le m)

theorem natAbs_toInt_lt {w : Nat} (hw : w < 53) (x : BitVec (w + 1)) : x.toInt.natAbs < 2 ^ 53 :=
  (natAbs_toInt_le x).trans_lt (Nat.pow_lt_pow_right one_lt_two hw)

/-- Settles O49: a product that is not zero is its own rounding. -/
theorem productIsExact : Obligations.ProductIsExact := by
  intro nanBits raw m
  by_cases hzero : raw.toInt * m.toInt = 0
  · rw [fmul_fp_of_mul_eq_zero hzero (natAbs_toInt_lt (by decide) raw) (natAbs_toInt_lt (by decide) m)]
    refine ⟨?_, fpSign_fpZero _⟩
    rw [fpValue_of_zero (fpKind_fpZero _), hzero, Int.cast_zero]
  · have hproduct := readsNormal_product hzero ((natAbs_product_le raw m).trans_lt (by decide)) nanBits
    refine ⟨?_, hproduct.sign⟩
    rw [hproduct.value, ← decide_mul_neg hzero, signFactor_mul_natAbs]

/-! The quotient (R174, R177). -/

theorem StrictlyNearest.signFactor_mul {r x : ℚ} (h : StrictlyNearest r x) (b : Bool) :
    StrictlyNearest (signFactor b * r) (signFactor b * x) := by
  have hmul (a c : ℚ) : |signFactor b * a - signFactor b * c| = |a - c| := by
    rw [← mul_sub, abs_mul, abs_signFactor, one_mul]
  have hinvolutive (q : ℚ) : signFactor b * (signFactor b * q) = q := by
    rw [← mul_assoc, signFactor_mul_self, one_mul]
  intro q hq hne
  rw [← hinvolutive q, hmul, hmul]
  exact h _ (hq.signFactor_mul b) fun heq => hne (by rw [← heq, hinvolutive])

theorem readsNormal_scale (nanBits : Word64) {raw : BitVec 24} {m : BitVec 16} {d : BitVec 32} (hd : d.toInt ≠ 0)
    (hproduct : raw.toInt * m.toInt ≠ 0) :
    ∃ r, ReadsNormal (scale nanBits raw.toInt m.toInt d.toInt)
        ((decide (raw.toInt < 0) ^^ decide (m.toInt < 0)) ^^ decide (d.toInt < 0)) r ∧
      StrictlyNearest r ((raw.toInt * m.toInt).natAbs / d.toInt.natAbs) := by
  have hlt := (natAbs_product_le raw m).trans_lt (show 2 ^ 38 < 2 ^ 53 by decide)
  exact readsNormal_fdiv (readsNormal_product hproduct hlt nanBits)
    (readsNormal_fp hd (natAbs_toInt_lt (by decide) d)) hlt (natAbs_toInt_le d) nanBits

theorem signFactor_mul_ratio {i j d : ℤ} (h : i * j ≠ 0) :
    signFactor ((decide (i < 0) ^^ decide (j < 0)) ^^ decide (d < 0)) * ((i * j).natAbs / d.natAbs : ℚ)
      = (i * j : ℚ) / d := by
  rw [signFactor_xor, ← decide_mul_neg h, div_mul_div_comm, signFactor_mul_natAbs, signFactor_mul_natAbs,
    Int.cast_mul]

/-- Settles O50: the rounded magnitude is nearest to the magnitude of the quotient, and both take the same sign. -/
theorem quotientIsNearest : Obligations.QuotientIsNearest := by
  intro nanBits raw m d hd hproduct
  obtain ⟨r, hreads, hnearest⟩ := readsNormal_scale nanBits hd hproduct
  replace hnearest := hnearest.signFactor_mul
    ((decide (raw.toInt < 0) ^^ decide (m.toInt < 0)) ^^ decide (d.toInt < 0))
  rw [signFactor_mul_ratio hproduct] at hnearest
  refine ⟨_, hreads.value, fun w q' hw hne => hnearest q' (hasBits53_of_fpValue hw) hne, hreads.sign, ?_⟩
  rintro ⟨k, hk⟩
  have hkLt : k.natAbs < 2 ^ 53 := by
    have hle := natAbs_product_le raw m
    rw [hk, Int.natAbs_mul] at hle
    have hk' := (Nat.le_mul_of_pos_left k.natAbs (Int.natAbs_pos.mpr hd)).trans hle
    omega
  have hquotient : (raw.toInt * m.toInt : ℚ) / d.toInt = k := by
    rw [div_eq_iff (Int.cast_ne_zero.mpr hd), mul_comm (k : ℚ)]
    exact_mod_cast hk
  exact hnearest.eq_of_hasBits53 (hquotient ▸ hasBits53_intCast hkLt)

/-- Settles O51: rounding does not pass a power of two. -/
theorem quotientIsNormal : Obligations.QuotientIsNormal := by
  intro nanBits raw m d hd hproduct
  obtain ⟨r, hreads, hnearest⟩ := readsNormal_scale nanBits hd hproduct
  refine ⟨hreads.exponent.1, hreads.exponent.2, _, hreads.value, ?_⟩
  rw [abs_mul, abs_signFactor, one_mul, abs_of_pos hreads.pos]
  have hp1 : (1 : ℚ) ≤ (raw.toInt * m.toInt).natAbs := mod_cast Int.natAbs_pos.mpr hproduct
  have hp38 : ((raw.toInt * m.toInt).natAbs : ℚ) ≤ 2 ^ 38 := mod_cast natAbs_product_le raw m
  have hd1 : (1 : ℚ) ≤ d.toInt.natAbs := mod_cast Int.natAbs_pos.mpr hd
  have hd31 : (d.toInt.natAbs : ℚ) ≤ 2 ^ 31 := mod_cast natAbs_toInt_le d
  constructor
  · have hbits : HasBits53 (1 / 2 ^ 31) := by simpa using hasBits53_two_zpow (-31)
    exact hnearest.ge_of_hasBits53 hbits (div_le_div₀ (by positivity) hp1 (by positivity) hd31)
  · have hbits : HasBits53 (2 ^ 38) := hasBits53_two_zpow 38
    exact hnearest.le_of_hasBits53 hbits ((div_le_self (by positivity) hd1).trans hp38)

/-! Zeros (R175, R178, R179). -/

/-- Settles O52: the zero product carries the sign of its other factor. -/
theorem zeroNumerator : Obligations.ZeroNumerator := by
  intro nanBits raw m d hd hzero
  rw [scale, fmul_fp_of_mul_eq_zero hzero (natAbs_toInt_lt (by decide) raw) (natAbs_toInt_lt (by decide) m),
    fdiv_zero_normal (fpKind_fpZero _) (readsNormal_fp hd (natAbs_toInt_lt (by decide) d)), fpSign_fpZero]
  have hsign : (decide (raw.toInt < 0) ^^ decide (m.toInt < 0)) = decide (raw.toInt < 0 ∨ m.toInt < 0) := by
    obtain h | h := mul_eq_zero.mp hzero <;> simp [h]
  rw [hsign]
  cases decide (raw.toInt < 0 ∨ m.toInt < 0) ^^ decide (d.toInt < 0) <;> rfl

/-- Settles O53: the divisor is `+0`, so an infinity takes the sign of the product. -/
theorem zeroDivisor : Obligations.ZeroDivisor := by
  intro nanBits raw m
  have hinfinity (hproduct : raw.toInt * m.toInt ≠ 0) :
      scale nanBits raw.toInt m.toInt 0 = fpInfinity (decide (raw.toInt * m.toInt < 0)) := by
    have hlt := (natAbs_product_le raw m).trans_lt (show 2 ^ 38 < 2 ^ 53 by decide)
    rw [scale, fdiv_normal_zero (readsNormal_product hproduct hlt nanBits) fpKind_fp_zero, ← decide_mul_neg hproduct,
      fpSign_fp (by decide), decide_eq_false (lt_irrefl 0), Bool.xor_false]
  refine ⟨fun hpos => ?_, fun hneg => ?_, fun hzero => ?_⟩
  · rw [hinfinity hpos.ne', decide_eq_false hpos.not_gt]
    rfl
  · rw [hinfinity hneg.ne, decide_eq_true hneg]
    rfl
  · rw [scale, fmul_fp_of_mul_eq_zero hzero (natAbs_toInt_lt (by decide) raw) (natAbs_toInt_lt (by decide) m)]
    exact fdiv_zero_zero (fpKind_fpZero _) fpKind_fp_zero nanBits

end Sys2Proof.Machine

/-! ## The sequencer's step (43_control.md R201, R202, R206 to R208) -/

namespace Sys2Proof.Machine

/-- Settles O22: END is this one write. -/
theorem endEffectAndFrame : Obligations.EndEffectAndFrame := fun _ => rfl

/-- Settles O27: with no host event the step is the sequencer's, and in BUSY it has one. -/
theorem stepRunsTheDecodedInstruction : Obligations.StepRunsTheDecodedInstruction := by
  intro s i hb hin hdec
  rw [step_of_inbox_nil hin, sequencerTurn_of_busy hb]
  exact sequencerStep_of_ok hdec

/-! Every meaning answers a next state. -/

theorem complete_next (s after : State) : ∃ t, complete s after = .next t := by
  by_cases hd : s.dpc = 31
  · exact ⟨_, complete_of_eq hd⟩
  · exact ⟨_, complete_of_ne hd⟩

theorem slice_next (w : Nat) (put : Bytes w → State → State) (s : State) : ∃ t, slice w put s = .next t := by
  by_cases hw : s.cur.toNat + w > 64
  · exact ⟨_, slice_of_overrun hw⟩
  · by_cases hd : s.dpc = 31
    · exact ⟨_, slice_of_last (Nat.le_of_not_lt hw) hd⟩
    · exact ⟨_, slice_of_fits (Nat.le_of_not_lt hw) hd⟩

theorem execLds_next (g : Group) (r : Bool) (s : State) : ∃ t, execLds g r s = .next t := by
  unfold execLds
  split
  · exact complete_next s _
  · exact ⟨_, raiseFault_eq _ _⟩

theorem execCnv_next (g : Group) (a : Axis) (s : State) : ∃ t, execCnv g a s = .next t := by
  unfold execCnv
  split
  · exact complete_next s _
  · exact ⟨_, raiseFault_eq _ _⟩

theorem exec_next (i : Instr) (s : State) : ∃ t, exec i s = .next t := by
  cases i with
  | slo f => exact exec_slo f s ▸ slice_next _ _ s
  | slm g => exact exec_slm g s ▸ slice_next _ _ s
  | sld g => exact exec_sld g s ▸ slice_next _ _ s
  | sla g a w => exact exec_sla g a w s ▸ slice_next _ _ s
  | lds g r => exact execLds_next g r s
  | cnv g a => exact execCnv_next g a s
  | endRun => exact ⟨_, rfl⟩

theorem sequencerTurn_next (s : State) : ∃ t, sequencerTurn s = .next t := by
  by_cases hb : s.status = .busy
  · rw [sequencerTurn_of_busy hb]
    cases hdec : decode (fetch s) with
    | error e => exact ⟨_, sequencerStep_of_error hdec⟩
    | ok i =>
      rw [sequencerStep_of_ok hdec]
      exact exec_next i s
  · exact ⟨s, sequencerTurn_of_not_busy hb⟩

/-- Settles O29: the sequencer's turn has a next state, and so has each host event. -/
theorem everyStepHasANextState : Obligations.EveryStepHasANextState := by
  intro s
  unfold step turn
  split
  · exact sequencerTurn_next s
  · exact sequencerTurn_next _
  · split
    · exact ⟨_, rfl⟩
    · exact sequencerTurn_next s
  · exact ⟨_, rfl⟩
  · exact ⟨_, rfl⟩

/-- A turn of the sequencer in BUSY ends the run, or leaves it in BUSY one descriptor further (R206 to R208, R262). -/
theorem sequencerTurn_progress {s t : State} (hb : s.status = .busy) (h : sequencerTurn s = .next t) :
    t.status = .done ∨ t.status = .fault ∨ (t.status = .busy ∧ t.dpc.toNat = s.dpc.toNat + 1) := by
  obtain ⟨hnot, -⟩ | ⟨-, -, rfl⟩ | ⟨-, i, -, he⟩ := sequencerTurn_cases h
  · exact absurd hb hnot
  · exact .inr (.inl rfl)
  · obtain hst | ⟨-, hst⟩ | ⟨hst, -⟩ := exec_status he
    · obtain ⟨hover, -, -⟩ | ⟨-, hdpc⟩ := exec_position he
      · exact absurd (hst.trans hb) hover
      · exact .inr (.inr ⟨hst.trans hb, hdpc⟩)
    · exact .inl hst
    · exact .inr (.inl hst)

/-- Settles O28: a step in BUSY changes STATUS or DPC. -/
theorem sequencerStepsExactlyWhenBusy : Obligations.SequencerStepsExactlyWhenBusy := by
  intro s hin
  rw [step_of_inbox_nil hin]
  refine ⟨sequencerTurn_of_not_busy, fun hb => ?_⟩
  obtain ⟨t, ht⟩ := sequencerTurn_next s
  refine ⟨t, ht, ?_⟩
  rintro rfl
  obtain hst | hst | ⟨-, hdpc⟩ := sequencerTurn_progress hb ht
  · simp [hb] at hst
  · simp [hb] at hst
  · omega

/-! Runs of the sequencer alone. -/

theorem runFor_of_not_busy {s : State} (hin : s.inbox = []) (hb : s.status ≠ .busy) (n : Nat) :
    runFor n s = .next s := by
  induction n with
  | zero => rfl
  | succ n ih => exact (runFor_succ ((step_of_inbox_nil hin).trans (sequencerTurn_of_not_busy hb))).trans ih

/-- With `n` descriptors left up to the end of the ROM, `n` steps end the run (R207). -/
theorem runFor_ends {n : Nat} {s : State} (hin : s.inbox = []) (hb : s.status = .busy)
    (hleft : 32 ≤ s.dpc.toNat + n) : ∃ t, runFor n s = .next t ∧ (t.status = .done ∨ t.status = .fault) := by
  induction n generalizing s with
  | zero => exact absurd s.dpc.isLt (Nat.not_lt.mpr hleft)
  | succ n ih =>
    obtain ⟨t, ht⟩ := sequencerTurn_next s
    have hint : t.inbox = [] := (sequencerTurn_keeps ht).2.2.trans hin
    rw [runFor_succ ((step_of_inbox_nil hin).trans ht)]
    obtain hst | hst | ⟨hst, hdpc⟩ := sequencerTurn_progress hb ht
    · exact ⟨t, runFor_of_not_busy hint (by simp [hst]) n, .inl hst⟩
    · exact ⟨t, runFor_of_not_busy hint (by simp [hst]) n, .inr hst⟩
    · exact ih hint hst (by omega)

/-- Settles O55: 32 descriptors are left at DPC = 0. -/
theorem everyRunEnds : Obligations.EveryRunEnds := fun _ hb hdpc hin => runFor_ends hin hb (by simp [hdpc])

end Sys2Proof.Machine

/-! ## Maps of states that instructions respect (30_encoding.md R93, 43_control.md R203, R213)

Two statements say that an instruction does to `f s` what it does to `s`: for the renaming of groups, and for the map
that hides what stands behind a flag that is 0. What the two maps share is said once. -/

namespace Sys2Proof.Machine

/-- The map keeps what the bounds of an instruction read, and the writes common to all instructions. -/
structure KeepsControl (f : State → State) : Prop where
  rb : ∀ s, (f s).rb = s.rb
  cur : ∀ s, (f s).cur = s.cur
  dpc : ∀ s, (f s).dpc = s.dpc
  moveCursor : ∀ s w, f (s.moveCursor w) = (f s).moveCursor w
  advance : ∀ s, f s.advance = (f s).advance
  enterFault : ∀ s c, f (s.enterFault c) = (f s).enterFault c

/-- The map takes the writes of an instruction to the writes of the renamed instruction, and keeps the sources that LDS
and CNV read where they hold a value. -/
structure Respects (π : Equiv.Perm Group) (f : State → State) : Prop extends KeepsControl f where
  params : ∀ s, (f s).params = s.params
  endRun : ∀ s, f { s with status := .done } = { f s with status := .done }
  putOpaque : ∀ s o L, f (s.putOpaque o L) = (f s).putOpaque o L
  putMulb : ∀ s g L, f (s.putMulb g L) = (f s).putMulb (π.symm g) L
  putDivb : ∀ s g L, f (s.putDivb g L) = (f s).putDivb (π.symm g) L
  putAxis : ∀ s g a field, f (s.putAxis g a field) = (f s).putAxis (π.symm g) a field
  putScale : ∀ s g m d, f (s.putScale g m d) = (f s).putScale (π.symm g) m d
  putVec : ∀ s g a raw v, f (s.putVec g a raw v) = (f s).putVec (π.symm g) a raw v
  scaleSources : ∀ s g, (f s).written.scaleSources (π.symm g) = s.written.scaleSources g
  convertSources : ∀ s g a, (f s).written.convertSources (π.symm g) a = s.written.convertSources g a
  scaleBytes : ∀ s g, s.written.scaleSources g = true →
    (f s).mulb.get (π.symm g) = s.mulb.get g ∧ (f s).divb.get (π.symm g) = s.divb.get g
  operands : ∀ s g a, s.written.convertSources g a = true →
    (f s).axb.at2 (π.symm g) a = s.axb.at2 g a ∧ (f s).m.get (π.symm g) = s.m.get g ∧
      (f s).d.get (π.symm g) = s.d.get g

namespace KeepsControl

variable {f : State → State} {s t after : State}

theorem raiseFault (hf : KeepsControl f) {c : Cause} (h : raiseFault c s = .next t) :
    raiseFault c (f s) = .next (f t) := by
  obtain rfl : s.enterFault c = t := Host.Outcome.next.inj h
  rw [hf.enterFault, raiseFault_eq]

theorem complete (hf : KeepsControl f) (h : complete s after = .next t) :
    complete (f s) (f after) = .next (f t) := by
  obtain ⟨hd, rfl⟩ | ⟨hd, rfl⟩ := complete_cases h
  · rw [hf.enterFault]
    exact complete_of_eq ((hf.dpc s).trans hd)
  · rw [hf.advance]
    exact complete_of_ne fun e => hd ((hf.dpc s).symm.trans e)

theorem slice (hf : KeepsControl f) {w : Nat} {put put' : Bytes w → State → State}
    (hput : ∀ L, f (put L s) = put' L (f s)) (h : slice w put s = .next t) : slice w put' (f s) = .next (f t) := by
  have hcur : (f s).cur.toNat = s.cur.toNat := by rw [hf.cur]
  have hdpc : (f s).dpc = s.dpc := hf.dpc s
  obtain ⟨hw, rfl⟩ | ⟨hw, hd, rfl⟩ | ⟨hw, hd, rfl⟩ := slice_cases h
  · rw [hf.enterFault]
    exact slice_of_overrun (by omega)
  · rw [hf.enterFault]
    exact slice_of_last (by omega) (hdpc.trans hd)
  · rw [slice_of_fits (by omega) (by rwa [hdpc]), hf.rb, hcur, hf.advance, hf.moveCursor, hput]

end KeepsControl

theorem Respects.exec {π : Equiv.Perm Group} {f : State → State} (hf : Respects π f) {i : Instr} {s t : State}
    (h : exec i s = .next t) : exec (renameInstr π i) (f s) = .next (f t) := by
  cases i with
  | slo o => exact (exec_slo o _).trans (hf.slice (hf.putOpaque s o) ((exec_slo o s).symm.trans h))
  | slm g => exact (exec_slm _ _).trans (hf.slice (hf.putMulb s g) ((exec_slm g s).symm.trans h))
  | sld g => exact (exec_sld _ _).trans (hf.slice (hf.putDivb s g) ((exec_sld g s).symm.trans h))
  | sla g a w =>
    exact (exec_sla _ a w _).trans (hf.slice (fun _ => hf.putAxis s g a _) ((exec_sla g a w s).symm.trans h))
  | lds g r =>
    simp only [Machine.exec, execLds, renameInstr, hf.scaleSources] at h ⊢
    by_cases hsrc : s.written.scaleSources g = true
    · obtain ⟨hmulb, hdivb⟩ := hf.scaleBytes s g hsrc
      rw [if_pos hsrc] at h ⊢
      rw [hmulb, hdivb, ← hf.putScale]
      exact hf.complete h
    · rw [if_neg hsrc] at h ⊢
      exact hf.raiseFault h
  | cnv g a =>
    simp only [Machine.exec, execCnv, renameInstr, hf.convertSources] at h ⊢
    by_cases hsrc : s.written.convertSources g a = true
    · obtain ⟨haxb, hm, hd⟩ := hf.operands s g a hsrc
      rw [if_pos hsrc] at h ⊢
      rw [haxb, hm, hd, hf.params, ← hf.putVec]
      exact hf.complete h
    · rw [if_neg hsrc] at h ⊢
      exact hf.raiseFault h
  | endRun =>
    obtain rfl := execEndRun_cases h
    rw [hf.endRun]
    rfl

/-! Renaming the groups. -/

section Renaming

variable {α : Type} (π : Equiv.Perm Group)

@[simp] theorem get_renameGroups (p : PerGroup α) (g : Group) : (renameGroups π p).get g = p.get (π g) := by
  cases g <;> rfl

@[simp] theorem at2_renameGroups (p : PerGroup (PerAxis α)) (g : Group) (a : Axis) :
    (renameGroups π p).at2 g a = p.at2 (π g) a := by
  simp [PerGroup.at2]

theorem renameGroups_set (p : PerGroup α) (g : Group) (v : α) :
    renameGroups π (p.set g v) = (renameGroups π p).set (π.symm g) v := by
  apply PerGroup.ext_get
  intro k
  simp [PerGroup.get_set, Equiv.eq_symm_apply]

theorem renameGroups_set2 (p : PerGroup (PerAxis α)) (g : Group) (a : Axis) (v : α) :
    renameGroups π (p.set2 g a v) = (renameGroups π p).set2 (π.symm g) a v := by
  simp [PerGroup.set2, renameGroups_set]

theorem respects_renameState : Respects π (renameState π) where
  rb _ := rfl
  cur _ := rfl
  dpc _ := rfl
  moveCursor _ _ := rfl
  advance _ := rfl
  enterFault _ _ := rfl
  params _ := rfl
  endRun _ := rfl
  putOpaque _ o _ := by cases o <;> rfl
  putMulb _ _ _ := by simp [renameState, State.putMulb, WFlags.setMulb, renameGroups_set]
  putDivb _ _ _ := by simp [renameState, State.putDivb, WFlags.setDivb, renameGroups_set]
  putAxis _ _ _ _ := by simp [renameState, State.putAxis, WFlags.setAxb, renameGroups_set2]
  putScale _ _ _ _ := by simp [renameState, State.putScale, WFlags.setScale, renameGroups_set]
  putVec _ _ _ _ _ := by simp [renameState, State.putVec, WFlags.setVec, renameGroups_set2]
  scaleSources _ _ := by simp [renameState, WFlags.scaleSources]
  convertSources _ _ _ := by simp [renameState, WFlags.convertSources]
  scaleBytes _ _ _ := by simp [renameState]
  operands _ _ _ _ := by simp [renameState]

end Renaming

/-- Settles O23: the renaming of groups respects every instruction. -/
theorem meaningIsTheSameForEveryGroup : Obligations.MeaningIsTheSameForEveryGroup :=
  fun π _ _ _ h => (respects_renameState π).exec h

/-! Hiding what stands behind a flag that is 0 (R36, R226). -/

/-- A value for each group. -/
def perGroup {α : Type} (f : Group → α) : PerGroup α :=
  ⟨f .ang, f .acc, f .mag⟩

@[simp] theorem get_perGroup {α : Type} (f : Group → α) (g : Group) : (perGroup f).get g = f g := by
  cases g <;> rfl

@[simp] theorem get_perAxis {α : Type} (f : Axis → α) (a : Axis) : (perAxis f).get a = f a := by
  cases a <;> rfl

/-- The registers of the groups, `v` in place of those whose flag is 0. -/
def hideUnset {α : Type} (flags : PerGroup Bool) (v : α) (p : PerGroup α) : PerGroup α :=
  perGroup fun g => if flags.get g then p.get g else v

/-- The registers of the groups and axes, `v` in place of those whose flag is 0. -/
def hideUnset2 {α : Type} (flags : PerGroup (PerAxis Bool)) (v : α) (p : PerGroup (PerAxis α)) : PerGroup (PerAxis α) :=
  perGroup fun g => perAxis fun a => if flags.at2 g a then p.at2 g a else v

section Hiding

variable {α : Type}

@[simp] theorem get_hideUnset (flags : PerGroup Bool) (v : α) (p : PerGroup α) (g : Group) :
    (hideUnset flags v p).get g = if flags.get g then p.get g else v :=
  get_perGroup _ g

@[simp] theorem at2_hideUnset2 (flags : PerGroup (PerAxis Bool)) (v : α) (p : PerGroup (PerAxis α)) (g : Group)
    (a : Axis) : (hideUnset2 flags v p).at2 g a = if flags.at2 g a then p.at2 g a else v := by
  simp [hideUnset2, PerGroup.at2]

theorem hideUnset_set (flags : PerGroup Bool) (v : α) (p : PerGroup α) (g : Group) (w : α) :
    hideUnset (flags.set g true) v (p.set g w) = (hideUnset flags v p).set g w := by
  apply PerGroup.ext_get
  intro k
  by_cases hk : k = g <;> simp [PerGroup.get_set, hk]

theorem hideUnset2_set2 (flags : PerGroup (PerAxis Bool)) (v : α) (p : PerGroup (PerAxis α)) (g : Group) (a : Axis)
    (w : α) : hideUnset2 (flags.set2 g a true) v (p.set2 g a w) = (hideUnset2 flags v p).set2 g a w := by
  apply PerGroup.ext_get
  intro k
  apply PerAxis.ext_get
  intro b
  change PerGroup.at2 _ k b = PerGroup.at2 _ k b
  by_cases hk : k = g ∧ b = a <;> simp [PerGroup.at2_set2, hk]

theorem hideUnset_clear (v : α) (p : PerGroup α) : hideUnset (.all false) v p = .all v := rfl

theorem hideUnset2_clear (v : α) (p : PerGroup (PerAxis α)) : hideUnset2 (.all (.all false)) v p = .all (.all v) := rfl

end Hiding

/-- The state with the value after reset in place of every data register whose flag is 0, and without the host's record.
What is left decides all that a run shows. -/
def State.hideUnset (s : State) : State :=
  { s with
    sig := bif s.written.sigW then s.sig else State.reset.sig
    temp := bif s.written.tempW then s.temp else State.reset.temp
    ts := bif s.written.tsW then s.ts else State.reset.ts
    mulb := Machine.hideUnset s.written.mulbW (.replicate 2 0) s.mulb
    divb := Machine.hideUnset s.written.divbW (.replicate 4 0) s.divb
    axb := hideUnset2 s.written.axbW (.b16 (.replicate 2 0)) s.axb
    m := Machine.hideUnset s.written.scaleW 0 s.m
    d := Machine.hideUnset s.written.scaleW 0 s.d
    raw := hideUnset2 s.written.vecW 0 s.raw
    vec := hideUnset2 s.written.vecW 0 s.vec
    answers := []
    draws := 0 }

theorem respects_hideUnset : Respects (Equiv.refl Group) State.hideUnset where
  rb _ := rfl
  cur _ := rfl
  dpc _ := rfl
  moveCursor _ _ := rfl
  advance _ := rfl
  enterFault _ _ := rfl
  params _ := rfl
  endRun _ := rfl
  putOpaque _ o _ := by cases o <;> rfl
  putMulb _ _ _ := by simp [State.hideUnset, State.putMulb, WFlags.setMulb, hideUnset_set]
  putDivb _ _ _ := by simp [State.hideUnset, State.putDivb, WFlags.setDivb, hideUnset_set]
  putAxis _ _ _ _ := by simp [State.hideUnset, State.putAxis, WFlags.setAxb, hideUnset2_set2]
  putScale _ _ _ _ := by simp [State.hideUnset, State.putScale, WFlags.setScale, hideUnset_set]
  putVec _ _ _ _ _ := by simp [State.hideUnset, State.putVec, WFlags.setVec, hideUnset2_set2]
  scaleSources _ _ := rfl
  convertSources _ _ _ := rfl
  scaleBytes s g h := by
    obtain ⟨hmulb, hdivb⟩ := (s.written.scaleSources_iff g).mp h
    simp [State.hideUnset, hmulb, hdivb]
  operands s g a h := by
    obtain ⟨haxb, hscale⟩ := (s.written.convertSources_iff g a).mp h
    simp [State.hideUnset, haxb, hscale]

theorem renameInstr_refl (i : Instr) : renameInstr (Equiv.refl Group) i = i := by
  cases i <;> rfl

theorem sequencerTurn_hideUnset {s t : State} (h : sequencerTurn s = .next t) :
    sequencerTurn s.hideUnset = .next t.hideUnset := by
  obtain ⟨hb, rfl⟩ | ⟨hb, ⟨e, hdec⟩, rfl⟩ | ⟨hb, i, hdec, he⟩ := sequencerTurn_cases h
  · exact sequencerTurn_of_not_busy hb
  · rw [sequencerTurn_of_busy (s := s.hideUnset) hb]
    exact sequencerStep_of_error (s := s.hideUnset) hdec
  · rw [sequencerTurn_of_busy (s := s.hideUnset) hb, sequencerStep_of_ok (s := s.hideUnset) hdec]
    exact renameInstr_refl i ▸ respects_hideUnset.exec he

theorem runFor_hideUnset {n : Nat} {s t : State} (hin : s.inbox = []) (h : runFor n s = .next t) :
    runFor n s.hideUnset = .next t.hideUnset := by
  induction n generalizing s with
  | zero =>
    obtain rfl : s = t := Host.Outcome.next.inj h
    rfl
  | succ n ih =>
    obtain ⟨u, hstep, hrest⟩ := step_of_runFor_succ h
    rw [step_of_inbox_nil hin] at hstep
    obtain ⟨-, -, hu⟩ := sequencerTurn_keeps hstep
    rw [runFor_succ ((step_of_inbox_nil (s := s.hideUnset) hin).trans (sequencerTurn_hideUnset hstep))]
    exact ih (hu.trans hin) hrest

/-- What is hidden is what a host cannot see. -/
theorem sameVisible_of_hideUnset_eq {s t : State} (h : s.hideUnset = t.hideUnset) : SameVisible s t := by
  have same {α : Type} (f : State → α) : f s.hideUnset = f t.hideUnset := congrArg f h
  have hw : s.written = t.written := same State.written
  exact
    { status := same State.status
      len := same State.len
      fcause := same State.fcause
      fdpc := same State.fdpc
      fcur := same State.fcur
      cur := same State.cur
      dpc := same State.dpc
      written := hw
      sig := fun hf => by simpa [State.hideUnset, ← hw, hf] using same State.sig
      temp := fun hf => by simpa [State.hideUnset, ← hw, hf] using same State.temp
      ts := fun hf => by simpa [State.hideUnset, ← hw, hf] using same State.ts
      mulb := fun g hf => by simpa [State.hideUnset, ← hw, hf] using same (·.mulb.get g)
      divb := fun g hf => by simpa [State.hideUnset, ← hw, hf] using same (·.divb.get g)
      axb := fun g a hf => by simpa [State.hideUnset, ← hw, hf] using same (·.axb.at2 g a)
      scale := fun g hf =>
        ⟨by simpa [State.hideUnset, ← hw, hf] using same (·.m.get g),
          by simpa [State.hideUnset, ← hw, hf] using same (·.d.get g)⟩
      vec := fun g a hf =>
        ⟨by simpa [State.hideUnset, ← hw, hf] using same (·.raw.at2 g a),
          by simpa [State.hideUnset, ← hw, hf] using same (·.vec.at2 g a)⟩ }

/-- DELIVER of a full frame leaves nothing of the state before it but the parameters and what is hidden. -/
theorem hideUnset_deliver_eq {s₁ s₂ : State} {F : List Byte} (hlen : F.length = 64) (hparams : s₁.params = s₂.params)
    (hin₁ : s₁.inbox = []) (hin₂ : s₂.inbox = []) : (s₁.deliver F).hideUnset = (s₂.deliver F).hideUnset := by
  have hbuffer : F.length = Config.reportLen := hlen
  simp [State.hideUnset, State.deliver, State.gate, State.takeFrame, (frameLength_eq_64 F).mpr hlen, hbuffer, hparams,
    hin₁, hin₂, WFlags.clear, hideUnset_clear, hideUnset2_clear]

/-- With all flags clear a host sees nothing but the status registers. -/
theorem deliver_sameVisible (s₁ s₂ : State) (F : List Byte) : SameVisible (s₁.deliver F) (s₂.deliver F) := by
  constructor <;> simp [WFlags.clear, PerGroup.at2]

/-- Settles O57: after a full frame the two runs are one run but for what is hidden, and any other frame ends them at
once. -/
theorem resultDependsOnTheFrameAlone : Obligations.ResultDependsOnTheFrameAlone := by
  intro s₁ s₂ t₁ t₂ F n hparams _ _ hin₁ hin₂ hrun₁ hrun₂
  have hq₁ : (s₁.deliver F).inbox = [] := by simpa using hin₁
  have hq₂ : (s₂.deliver F).inbox = [] := by simpa using hin₂
  by_cases hlen : F.length = 64
  · have hhidden₁ := runFor_hideUnset hq₁ hrun₁
    rw [hideUnset_deliver_eq hlen hparams hin₁ hin₂, runFor_hideUnset hq₂ hrun₂] at hhidden₁
    exact sameVisible_of_hideUnset_eq (Host.Outcome.next.inj hhidden₁).symm
  · have hidle (s : State) : (s.deliver F).status ≠ .busy := by simp [hlen]
    rw [runFor_of_not_busy hq₁ (hidle s₁)] at hrun₁
    rw [runFor_of_not_busy hq₂ (hidle s₂)] at hrun₂
    obtain rfl := Host.Outcome.next.inj hrun₁
    obtain rfl := Host.Outcome.next.inj hrun₂
    exact deliver_sameVisible s₁ s₂ F

end Sys2Proof.Machine

/-! ## The machine computes DecodeReport (43_control.md R211, R212)

While the canonical program runs, every register whose flag is set holds what DecodeReport says of it: each descriptor
keeps that, since a slice stands at its field's place in the frame and LDS and CNV compute from registers that hold the
report's values. At END all flags are set. -/

namespace Sys2Proof.Machine

/-- Where the fields of a group begin in the frame (R67, R211). -/
def groupBase : Group → Nat
  | .ang => 12
  | .acc => 27
  | .mag => 42

/-- The width of a group's axis fields (R67, R211). -/
def groupWidth : Group → AxisWidth
  | .ang => .w3
  | .acc => .w3
  | .mag => .w2

/-- The group's scale pair is read from its end (R152, R211). -/
def groupReversed : Group → Bool
  | .ang => false
  | .acc => false
  | .mag => true

/-- Where an opaque field begins in the frame (R67, R211). -/
def opaqueBase : OpaqueField → Nat
  | .sig => 0
  | .temp => 2
  | .ts => 4

/-- DecodeReport's registers of a group. -/
def frameGroup (nanBits : Word64) (F : List Byte) (g : Group) : GroupRegisters :=
  decodeGroup nanBits F (groupBase g) (groupWidth g) (groupReversed g)

theorem decodeReport_of_full (nanBits : Word64) {F : List Byte} (hlen : F.length = 64) :
    decodeReport nanBits F = some
      { sig := subList F 0 2
        temp := subList F 2 2
        ts := subList F 4 8
        groups := perGroup (frameGroup nanBits F) } := by
  have hfull : F.length = Config.reportLen := hlen
  simp only [decodeReport, hfull, ne_eq, not_true_eq_false, if_false]
  rfl

/-- The report's layout wants the instruction as it is, with the cursor where it stands. -/
def fitsLayout (cur : Nat) : Instr → Bool
  | .slo f => cur == opaqueBase f
  | .slm g => cur == groupBase g
  | .sld g => cur == groupBase g + 2
  | .sla g a w => w == groupWidth g && cur == groupBase g + 6 + a.num.toNat * w.bytes
  | .lds g r => r == groupReversed g
  | .cnv _ _ => true
  | .endRun => true

theorem expandReport_fitsLayout {k : Nat} {i : Instr} (hi : expandReport[k]? = some i) :
    fitsLayout (slicedBy (expandReport.take k)) i = true := by
  obtain ⟨hk, rfl⟩ := List.getElem?_eq_some_iff.mp hi
  have hall : ∀ k : Fin 31, fitsLayout (slicedBy (expandReport.take k)) expandReport[k] = true := by
    decide
  exact hall ⟨k, hk⟩

/-! DecodeReport's registers, one from the other as LDS and CNV compute them. -/

section FrameGroup

variable (nanBits : Word64) (F : List Byte) (g : Group) (a : Axis)

theorem frameGroup_axb : (frameGroup nanBits F g).axb.get a = frameAxis F (groupBase g) (groupWidth g) a :=
  get_perAxis _ a

theorem frameGroup_raw : (frameGroup nanBits F g).raw.get a = rawOf ((frameGroup nanBits F g).axb.get a) := by
  rw [frameGroup_axb]
  exact get_perAxis _ a

theorem frameGroup_vec :
    (frameGroup nanBits F g).vec.get a = scale nanBits (rawOf ((frameGroup nanBits F g).axb.get a))
      (frameGroup nanBits F g).m (frameGroup nanBits F g).d := by
  rw [frameGroup_axb]
  exact get_perAxis _ a

theorem frameGroup_m :
    (frameGroup nanBits F g).m = mul16 (orderBytes (groupReversed g) (frameGroup nanBits F g).mulb) := rfl

theorem frameGroup_d :
    (frameGroup nanBits F g).d = div32 (orderBytes (groupReversed g) (frameGroup nanBits F g).divb) := rfl

end FrameGroup

/-! A property of the registers whose flag is set, under a write that has it. -/

theorem flagged_set {α : Type} {flags : PerGroup Bool} {p : PerGroup α} {P : Group → α → Prop} {g : Group} {v : α}
    (h : ∀ k, flags.get k = true → P k (p.get k)) (hv : P g v) :
    ∀ k, (flags.set g true).get k = true → P k ((p.set g v).get k) := by
  intro k hk
  by_cases he : k = g
  · simpa [he] using hv
  · simp only [PerGroup.get_set, he, if_false] at hk ⊢
    exact h k hk

theorem flagged_set2 {α : Type} {flags : PerGroup (PerAxis Bool)} {p : PerGroup (PerAxis α)}
    {P : Group → Axis → α → Prop} {g : Group} {a : Axis} {v : α}
    (h : ∀ k b, flags.at2 k b = true → P k b (p.at2 k b)) (hv : P g a v) :
    ∀ k b, (flags.set2 g a true).at2 k b = true → P k b ((p.set2 g a v).at2 k b) := by
  intro k b hk
  by_cases he : k = g ∧ b = a
  · simpa [he] using hv
  · simp only [PerGroup.at2_set2, he, if_false] at hk ⊢
    exact h k b hk

/-- Every register whose flag is set holds what DecodeReport says of it. -/
structure HoldsReport (nanBits : Word64) (F : List Byte) (s : State) : Prop where
  sig : s.written.sigW = true → s.sig = subList F 0 2
  temp : s.written.tempW = true → s.temp = subList F 2 2
  ts : s.written.tsW = true → s.ts = subList F 4 8
  mulb : ∀ g, s.written.mulbW.get g = true → s.mulb.get g = (frameGroup nanBits F g).mulb
  divb : ∀ g, s.written.divbW.get g = true → s.divb.get g = (frameGroup nanBits F g).divb
  axb : ∀ g a, s.written.axbW.at2 g a = true → s.axb.at2 g a = (frameGroup nanBits F g).axb.get a
  m : ∀ g, s.written.scaleW.get g = true → (s.m.get g).toInt = (frameGroup nanBits F g).m
  d : ∀ g, s.written.scaleW.get g = true → (s.d.get g).toInt = (frameGroup nanBits F g).d
  raw : ∀ g a, s.written.vecW.at2 g a = true → (s.raw.at2 g a).toInt = (frameGroup nanBits F g).raw.get a
  vec : ∀ g a, s.written.vecW.at2 g a = true → s.vec.at2 g a = (frameGroup nanBits F g).vec.get a

theorem memRead_eq_subList {mem : Memory} {F : List Byte} (hmem : ∀ a < 64, mem.read a = F.getD a 0) {addr n : Nat}
    (hfit : addr + n ≤ 64) : memRead mem addr n = subList F addr n := by
  ext k hk
  simp [subList, hmem (addr + k) (by omega)]

namespace HoldsReport

variable {nanBits : Word64} {F : List Byte} {s t : State} {g : Group} {a : Axis}

theorem of_clear (h : s.written = .clear) : HoldsReport nanBits F s := by
  constructor <;> simp [h, WFlags.clear, PerGroup.at2]

/-- The registers alone count. -/
theorem withControl (h : HoldsReport nanBits F s) (cur : BitVec 7) (dpc : BitVec 5) (status : Status) (fcause : Cause)
    (fdpc : BitVec 5) (fcur : BitVec 7) :
    HoldsReport nanBits F
      { s with cur := cur, dpc := dpc, status := status, fcause := fcause, fdpc := fdpc, fcur := fcur } :=
  ⟨h.sig, h.temp, h.ts, h.mulb, h.divb, h.axb, h.m, h.d, h.raw, h.vec⟩

theorem putOpaque (h : HoldsReport nanBits F s) (f : OpaqueField) :
    HoldsReport nanBits F (s.putOpaque f (subList F (opaqueBase f) f.width)) := by
  cases f with
  | sig => exact ⟨fun _ => rfl, h.temp, h.ts, h.mulb, h.divb, h.axb, h.m, h.d, h.raw, h.vec⟩
  | temp => exact ⟨h.sig, fun _ => rfl, h.ts, h.mulb, h.divb, h.axb, h.m, h.d, h.raw, h.vec⟩
  | ts => exact ⟨h.sig, h.temp, fun _ => rfl, h.mulb, h.divb, h.axb, h.m, h.d, h.raw, h.vec⟩

theorem putMulb (h : HoldsReport nanBits F s) (g : Group) :
    HoldsReport nanBits F (s.putMulb g (frameGroup nanBits F g).mulb) :=
  { h with mulb := flagged_set (P := fun k v => v = (frameGroup nanBits F k).mulb) h.mulb rfl }

theorem putDivb (h : HoldsReport nanBits F s) (g : Group) :
    HoldsReport nanBits F (s.putDivb g (frameGroup nanBits F g).divb) :=
  { h with divb := flagged_set (P := fun k v => v = (frameGroup nanBits F k).divb) h.divb rfl }

theorem putAxis (h : HoldsReport nanBits F s) (g : Group) (a : Axis) :
    HoldsReport nanBits F (s.putAxis g a ((frameGroup nanBits F g).axb.get a)) :=
  { h with axb := flagged_set2 (P := fun k b v => v = (frameGroup nanBits F k).axb.get b) h.axb rfl }

theorem putScale (h : HoldsReport nanBits F s) (hmulb : s.mulb.get g = (frameGroup nanBits F g).mulb)
    (hdivb : s.divb.get g = (frameGroup nanBits F g).divb) :
    HoldsReport nanBits F (s.putScale g (mul16 (orderBytes (groupReversed g) (s.mulb.get g)))
      (div32 (orderBytes (groupReversed g) (s.divb.get g)))) := by
  rw [hmulb, hdivb, ← frameGroup_m, ← frameGroup_d]
  exact
    { h with
      m := flagged_set (P := fun k v => BitVec.toInt v = (frameGroup nanBits F k).m) h.m (toInt_ofInt_mul16 _)
      d := flagged_set (P := fun k v => BitVec.toInt v = (frameGroup nanBits F k).d) h.d (toInt_ofInt_div32 _) }

theorem putVec (h : HoldsReport nanBits F s) (haxb : s.axb.at2 g a = (frameGroup nanBits F g).axb.get a)
    (hm : (s.m.get g).toInt = (frameGroup nanBits F g).m) (hd : (s.d.get g).toInt = (frameGroup nanBits F g).d) :
    HoldsReport nanBits F (s.putVec g a (rawOf (s.axb.at2 g a))
      (Machine.scale nanBits (rawOf (s.axb.at2 g a)) (s.m.get g).toInt (s.d.get g).toInt)) := by
  rw [haxb, hm, hd, ← frameGroup_vec]
  have hraw := (toInt_ofInt_rawOf _).trans (frameGroup_raw nanBits F g a).symm
  exact
    { h with
      raw := flagged_set2 (P := fun k b v => BitVec.toInt v = (frameGroup nanBits F k).raw.get b) h.raw hraw
      vec := flagged_set2 (P := fun k b v => v = (frameGroup nanBits F k).vec.get b) h.vec rfl }

/-- An instruction that fits the layout keeps the registers those of the report. -/
theorem exec (h : HoldsReport s.params.nanBits F s) (hmem : ∀ a < 64, s.rb.read a = F.getD a 0) {i : Instr}
    (hfit : fitsLayout s.cur.toNat i = true) (ht : exec i s = .next t) : HoldsReport s.params.nanBits F t := by
  obtain ⟨c, -, rfl⟩ | ⟨-, rfl⟩ | ⟨-, he⟩ := exec_cases ht
  · exact h.withControl _ _ _ _ _ _
  · exact h.withControl _ _ _ _ _ _
  obtain ⟨f, rfl, hw, rfl⟩ | ⟨g, rfl, hw, rfl⟩ | ⟨g, rfl, hw, rfl⟩ | ⟨g, a, w, rfl, hw, rfl⟩ | ⟨g, r, rfl, hsrc, rfl⟩ |
    ⟨g, a, rfl, hsrc, rfl⟩ := he
  · have hcur : s.cur.toNat = opaqueBase f := by simpa [fitsLayout] using hfit
    rw [memRead_eq_subList hmem hw, hcur]
    exact (h.putOpaque f).withControl _ _ _ _ _ _
  · have hcur : s.cur.toNat = groupBase g := by simpa [fitsLayout] using hfit
    rw [memRead_eq_subList hmem hw, hcur]
    exact (h.putMulb g).withControl _ _ _ _ _ _
  · have hcur : s.cur.toNat = groupBase g + 2 := by simpa [fitsLayout] using hfit
    rw [memRead_eq_subList hmem hw, hcur]
    exact (h.putDivb g).withControl _ _ _ _ _ _
  · obtain ⟨rfl, hcur⟩ : w = groupWidth g ∧ s.cur.toNat = groupBase g + 6 + a.num.toNat * w.bytes := by
      simpa [fitsLayout] using hfit
    rw [memRead_eq_subList hmem hw, hcur]
    have hput := h.putAxis g a
    rw [frameGroup_axb] at hput
    exact hput.withControl _ _ _ _ _ _
  · obtain rfl : r = groupReversed g := by simpa [fitsLayout] using hfit
    obtain ⟨hmulb, hdivb⟩ := (s.written.scaleSources_iff g).mp hsrc
    exact (h.putScale (h.mulb g hmulb) (h.divb g hdivb)).withControl _ _ _ _ _ _
  · obtain ⟨haxb, hscale⟩ := (s.written.convertSources_iff g a).mp hsrc
    exact (h.putVec (h.axb g a haxb) (h.m g hscale) (h.d g hscale)).withControl _ _ _ _ _ _

end HoldsReport

/-- The canonical program decodes the frame and has got where DPC says. -/
structure Decoding (F : List Byte) (s : State) : Prop where
  progress : CanonicalProgress s
  busy : s.status = .busy
  quiet : s.inbox = []
  buffer : ∀ a < 64, s.rb.read a = F.getD a 0
  holds : HoldsReport s.params.nanBits F s

theorem Decoding.deliver {s : State} {F : List Byte} (hrom : s.params.layoutRom = Config.canonicalRom)
    (hin : s.inbox = []) (hlen : F.length = 64) : Decoding F (s.deliver F) where
  progress := .of_start (by simpa using hrom) (by simp) (by simp [hlen]) (by simp) (by simp) (by simp)
  busy := by simp [hlen]
  quiet := by simpa using hin
  buffer _ ha := read_deliver s hlen ha
  holds := .of_clear (by simp)

theorem expandReport_ne_endRun {k : Nat} (hk : k < 30) : expandReport[k]? ≠ some .endRun := by
  have hall : ∀ k : Fin 30, expandReport[k.val]? ≠ some .endRun := by decide
  exact hall ⟨k, hk⟩

namespace Decoding

variable {F : List Byte} {s : State}

/-- The next step is that of the program's descriptor at DPC. -/
theorem step_eq (h : Decoding F s) : ∃ i, expandReport[s.dpc.toNat]? = some i ∧ step s = Machine.exec i s := by
  rw [step_of_inbox_nil h.quiet, sequencerTurn_of_busy h.busy]
  cases hdec : decode (fetch s) with
  | error e => exact absurd hdec (h.progress.decode_fetch_ne_error h.busy e)
  | ok i => exact ⟨i, expandReport_of_decode h.progress.rom hdec, sequencerStep_of_ok hdec⟩

/-- Before index 30 the decode goes on. -/
theorem step (h : Decoding F s) (hk : s.dpc.toNat < 30) :
    ∃ t, step s = .next t ∧ Decoding F t ∧ t.dpc.toNat = s.dpc.toNat + 1 ∧ t.params = s.params := by
  obtain ⟨i, hi, hstep⟩ := h.step_eq
  obtain ⟨t, ht⟩ := exec_next i s
  obtain ⟨hparams, hrb, hin⟩ := exec_keeps ht
  have hprogress := h.progress.exec h.busy hi ht
  have hfit : fitsLayout s.cur.toNat i = true := h.progress.cursor h.busy ▸ expandReport_fitsLayout hi
  have hbusy : t.status = .busy := by
    obtain hst | ⟨rfl, -⟩ | ⟨hfault, -⟩ := exec_status ht
    · exact hst.trans h.busy
    · exact absurd hi (expandReport_ne_endRun hk)
    · exact absurd hfault hprogress.noFault
  obtain ⟨hover, -, -⟩ | ⟨-, hdpc⟩ := exec_position ht
  · exact absurd hbusy hover
  · exact ⟨t, hstep.trans ht,
      { progress := hprogress
        busy := hbusy
        quiet := hin.trans h.quiet
        buffer := hrb ▸ h.buffer
        holds := hparams ▸ h.holds.exec h.buffer hfit ht }, hdpc, hparams⟩

/-- At index 30 the program ends. -/
theorem step_last (h : Decoding F s) (hk : s.dpc.toNat = 30) : Machine.step s = .next { s with status := .done } := by
  obtain ⟨i, hi, hstep⟩ := h.step_eq
  rw [hk] at hi
  obtain rfl : Instr.endRun = i := Option.some.inj hi
  exact hstep

/-- The run up to END, which changes STATUS alone. -/
theorem run {n : Nat} (h : Decoding F s) (hn : s.dpc.toNat + n = 30) :
    ∃ u, runFor (n + 1) s = .next { u with status := .done } ∧ Decoding F u ∧ u.dpc.toNat = 30 ∧
      u.params = s.params := by
  induction n generalizing s with
  | zero => exact ⟨s, runFor_succ (h.step_last hn), h, hn, rfl⟩
  | succ n ih =>
    obtain ⟨t, ht, hdec, hdpc, hparams⟩ := h.step (by omega)
    obtain ⟨u, hrun, hu, hdpcu, hparamsu⟩ := ih hdec (by omega)
    exact ⟨u, (runFor_succ ht).trans hrun, hu, hdpcu, hparamsu.trans hparams⟩

theorem cur_at_end (h : Decoding F s) (hk : s.dpc.toNat = 30) : s.cur = 54 := by
  apply BitVec.eq_of_toNat_eq
  rw [h.progress.cursor h.busy, hk]
  decide

theorem flags_at_end (h : Decoding F s) (hk : s.dpc.toNat = 30) : s.written.word = 0x3FFFFFFF := by
  rw [h.progress.flags h.busy, hk]
  decide

end Decoding

/-! With all flags set the registers are the report. -/

theorem getLsbD_allFlags {k : Nat} (hk : k < 30) : (0x3FFFFFFF : BitVec 32).getLsbD k = true := by
  have hall : ∀ k : Fin 30, (0x3FFFFFFF : BitVec 32).getLsbD k.val = true := by decide
  exact hall ⟨k, hk⟩

theorem allFlags_of_word {f : WFlags} (h : f.word = 0x3FFFFFFF) :
    (f.sigW = true ∧ f.tempW = true ∧ f.tsW = true) ∧
      ∀ g, f.mulbW.get g = true ∧ f.divbW.get g = true ∧ f.scaleW.get g = true ∧
        ∀ a, f.axbW.at2 g a = true ∧ f.vecW.at2 g a = true := by
  obtain ⟨hsig, htemp, hts, hgroup, -⟩ := flagBitsOfWflags f
  have hset {k : Nat} {flag : Bool} (hbit : f.word.getLsbD k = flag) (hk : k < 30) : flag = true := by
    rw [← hbit, h, getLsbD_allFlags hk]
  have hnum (g : Group) : g.num.toNat ≤ 2 := by cases g <;> decide
  have hnumAxis (a : Axis) : a.num.toNat ≤ 2 := by cases a <;> decide
  refine ⟨⟨hset hsig (by omega), hset htemp (by omega), hset hts (by omega)⟩, fun g => ?_⟩
  obtain ⟨hmulb, hdivb, hscale, haxis⟩ := hgroup g
  have hg := hnum g
  refine ⟨hset hmulb (by omega), hset hdivb (by omega), hset hscale (by omega), fun a => ?_⟩
  obtain ⟨haxb, hvec⟩ := haxis a
  have ha := hnumAxis a
  exact ⟨hset haxb (by omega), hset hvec (by omega)⟩

theorem groupRegisters_of_holdsReport {nanBits : Word64} {F : List Byte} {s : State} (h : HoldsReport nanBits F s)
    (hword : s.written.word = 0x3FFFFFFF) (g : Group) : s.groupRegisters g = frameGroup nanBits F g := by
  obtain ⟨-, hgroup⟩ := allFlags_of_word hword
  obtain ⟨hmulb, hdivb, hscale, haxis⟩ := hgroup g
  have haxb : s.axb.get g = (frameGroup nanBits F g).axb := PerAxis.ext_get fun a => h.axb g a (haxis a).1
  have hraw : (perAxis fun a => (s.raw.at2 g a).toInt) = (frameGroup nanBits F g).raw :=
    PerAxis.ext_get fun a => (get_perAxis _ a).trans (h.raw g a (haxis a).2)
  have hvec : s.vec.get g = (frameGroup nanBits F g).vec := PerAxis.ext_get fun a => h.vec g a (haxis a).2
  rw [State.groupRegisters, h.mulb g hmulb, h.divb g hdivb, haxb, h.m g hscale, h.d g hscale,
    hraw, hvec]

theorem report_of_holdsReport {nanBits : Word64} {F : List Byte} {s : State} (hlen : F.length = 64)
    (h : HoldsReport nanBits F s) (hword : s.written.word = 0x3FFFFFFF) :
    decodeReport nanBits F = some s.report := by
  obtain ⟨⟨hsig, htemp, hts⟩, -⟩ := allFlags_of_word hword
  have hgroups := groupRegisters_of_holdsReport h hword
  rw [decodeReport_of_full nanBits hlen, State.report, h.sig hsig, h.temp htemp, h.ts hts, hgroups, hgroups, hgroups]
  rfl

theorem decodeReport_eq_none_iff (nanBits : Word64) (F : List Byte) :
    decodeReport nanBits F = none ↔ F.length ≠ 64 := by
  by_cases hlen : F.length = 64
  · simp [decodeReport_of_full nanBits hlen, hlen]
  · simp [decodeReport, Config.reportLen, hlen]

/-- Settles O54: the run keeps the registers written so far those of the report, and at END all are written. -/
theorem machineAgreesWithDecodeReport : Obligations.MachineAgreesWithDecodeReport := by
  intro s F hrom _ hin
  refine ⟨fun hnone => ?_, fun r hr => ?_⟩
  · rw [State.deliver_status, if_neg ((decodeReport_eq_none_iff _ _).mp hnone)]
  · have hlen : F.length = 64 := by
      by_contra hne
      simp [(decodeReport_eq_none_iff _ _).mpr hne] at hr
    obtain ⟨u, hrun, hu, hdpc, hparams⟩ := (Decoding.deliver hrom hin hlen).run (n := 30) (by simp)
    have hword := hu.flags_at_end hdpc
    have hreport := report_of_holdsReport hlen hu.holds hword
    rw [hparams, (s.deliver_keeps F).1, hr] at hreport
    obtain rfl := Option.some.inj hreport
    refine ⟨_, hrun, rfl, rfl, hu.progress.noCause, hu.cur_at_end hdpc, BitVec.eq_of_toNat_eq hdpc, hword, ?_⟩
    have hfields := subFields_decodeReport hr
    exact (congrArg (List.map hexText) hfields).trans List.map_map

end Sys2Proof.Machine

/-! ## The host's three transactions (44_host.md R220 to R226)

Which event stands at the head of the inbox, and for DELIVER whether the block is in BUSY, says what the step is. -/

namespace Sys2Proof.Machine

/-- The state with other coming host events. -/
def State.withInbox (s : State) (inbox : List HostEvent) : State :=
  { s with inbox := inbox }

section Transactions

variable {s : State} {F : List Byte} {n : Byte} {rest : List HostEvent}

theorem step_of_deliver (hb : s.status ≠ .busy) (hin : s.inbox = .deliver F :: rest) :
    step s = .next ((s.withInbox rest).deliver F) := by
  simp [step, turn, hin, State.frReady, hb, State.withInbox]

theorem step_of_deliver_of_busy (hb : s.status = .busy) (hin : s.inbox = .deliver F :: rest) :
    step s = sequencerTurn s := by
  simp [step, turn, hin, State.frReady, hb]

theorem readPort_withInbox (s : State) (inbox : List HostEvent) (n : Byte) :
    (s.withInbox inbox).readPort n = s.readPort n := by
  have hpacked (r : RegName) : (s.withInbox inbox).packed r = s.packed r := by cases r <;> rfl
  have hlacks (r : RegName) : (s.withInbox inbox).lacksByte2 r = s.lacksByte2 r := by cases r <;> rfl
  simp only [State.readPort, hpacked, hlacks]
  rfl

/-- A READ answers with the port as it stands before the event leaves the inbox. -/
theorem step_of_read (hin : s.inbox = .read n :: rest) :
    step s = .next { s with
      inbox := rest, answers := s.answers ++ [⟨n, s.rdData n⟩], draws := s.draws + (s.readPort n).2 } := by
  have hread : step s = .next ((s.withInbox rest).takeRead n) := by simp [step, turn, hin, State.withInbox]
  rw [hread, State.takeRead, State.rdData, readPort_withInbox]
  rfl

end Transactions

/-! DELIVER (R200, R221, R222). -/

/-- `LEN` holds 65535, so the saturated length does not wrap (R27). -/
theorem toNat_frameLength (F : List Byte) : (frameLength F).toNat = min F.length 65535 :=
  Nat.mod_eq_of_lt (Nat.lt_of_le_of_lt (Nat.min_le_right _ _) (by decide))

/-- Neither DELIVER nor the taking of its event from the inbox writes a data register. -/
theorem sameFields_deliver (s : State) (F : List Byte) (rest : List HostEvent) :
    SameFields s ((s.withInbox rest).deliver F) (fun _ => False) (fun _ => False) (fun _ => False)
      (fun _ _ => False) where
  opaqueRegs f _ := by cases f <;> simp [State.opaqueBytes, State.withInbox]
  mulb := by simp [State.withInbox]
  divb := by simp [State.withInbox]
  axb := by simp [State.withInbox]

theorem sameResults_deliver (s : State) (F : List Byte) (rest : List HostEvent) :
    SameResults s ((s.withInbox rest).deliver F) (fun _ => False) (fun _ _ => False) where
  m := by simp [State.withInbox]
  d := by simp [State.withInbox]
  raw := by simp [State.withInbox]
  vec := by simp [State.withInbox]

theorem rb_deliver_of_ne {F : List Byte} (s : State) (hlen : F.length ≠ 64) : (s.deliver F).rb = s.rb := by
  obtain ⟨-, -, -, -, -, -, -, hrb⟩ := s.deliver_writes F
  exact hrb.trans (if_neg hlen)

/-- Settles O36: the step is the DELIVER itself, and the frame's length alone decides the gate. -/
theorem deliverEffect : Obligations.DeliverEffect := by
  intro s F rest hb hin
  obtain ⟨hlen, hcur, hdpc, hfcause, hfdpc, hfcur, hwritten, -⟩ := (s.withInbox rest).deliver_writes F
  refine ⟨_, step_of_deliver hb hin, by rw [hlen, toNat_frameLength], by rw [hwritten]; rfl, hfcause, hfdpc, hfcur,
    hcur, hdpc, fun h64 => ⟨by simp [h64], fun i hi => ?_⟩, fun h64 => ⟨by simp [h64], fun a => ?_⟩,
    sameFields_deliver s F rest, sameResults_deliver s F rest, by simp [State.withInbox]⟩
  · rw [read_deliver _ h64 (by omega), List.getD_eq_getElem _ _ hi]
  · rw [rb_deliver_of_ne _ h64]
    rfl

/-- No instruction looks at the host's events. -/
theorem respects_withInbox (inbox : List HostEvent) : Respects (Equiv.refl Group) (State.withInbox · inbox) where
  rb _ := rfl
  cur _ := rfl
  dpc _ := rfl
  moveCursor _ _ := rfl
  advance _ := rfl
  enterFault _ _ := rfl
  params _ := rfl
  endRun _ := rfl
  putOpaque _ o _ := by cases o <;> rfl
  putMulb _ _ _ := rfl
  putDivb _ _ _ := rfl
  putAxis _ _ _ _ := rfl
  putScale _ _ _ _ := rfl
  putVec _ _ _ _ _ := rfl
  scaleSources _ _ := rfl
  convertSources _ _ _ := rfl
  scaleBytes _ _ _ := ⟨rfl, rfl⟩
  operands _ _ _ _ := ⟨rfl, rfl, rfl⟩

theorem sequencerTurn_withInbox {s t : State} (inbox : List HostEvent) (h : sequencerTurn s = .next t) :
    sequencerTurn (s.withInbox inbox) = .next (t.withInbox inbox) := by
  obtain ⟨hb, rfl⟩ | ⟨hb, ⟨e, hdec⟩, rfl⟩ | ⟨hb, i, hdec, he⟩ := sequencerTurn_cases h
  · exact sequencerTurn_of_not_busy hb
  · rw [sequencerTurn_of_busy (s := s.withInbox inbox) hb]
    exact sequencerStep_of_error (s := s.withInbox inbox) hdec
  · rw [sequencerTurn_of_busy (s := s.withInbox inbox) hb, sequencerStep_of_ok (s := s.withInbox inbox) hdec]
    exact renameInstr_refl i ▸ (respects_withInbox inbox).exec he

/-- Settles O37: the sequencer takes its turn with the frame waiting as it does with an empty inbox. -/
theorem deliverWaitsWhileBusy : Obligations.DeliverWaitsWhileBusy := by
  intro s F rest hb hin t ht
  rw [step_of_inbox_nil rfl] at ht
  rw [step_of_deliver_of_busy hb hin]
  exact sequencerTurn_withInbox (s := s.withInbox []) s.inbox ht

/-! READ (R225, R226). -/

/-- Settles O38: the step of a READ writes these three fields. -/
theorem readChangesNothing : Obligations.ReadChangesNothing :=
  fun _ _ _ hin => ⟨_, step_of_read hin, rfl, rfl⟩

theorem isStatus_of_opaqueRegister {k : Nat} {r : RegName} (h : opaqueRegister k = some r) : r.isStatus = false := by
  unfold opaqueRegister at h
  split at h <;> cases h <;> rfl

theorem isStatus_of_fieldRegister {g : Group} {k : Nat} {r : RegName} (h : fieldRegister g k = some r) :
    r.isStatus = false := by
  unfold fieldRegister at h
  split at h <;> cases h <;> rfl

theorem isStatus_of_scaleRegister {g : Group} {k : Nat} {r : RegName} (h : scaleRegister g k = some r) :
    r.isStatus = false := by
  unfold scaleRegister at h
  split at h <;> cases h <;> rfl

/-- The registers from number `0x10` on are data registers (R40). -/
theorem isStatus_of_regOfNumber {n : Byte} {r : RegName} (hn : regOfNumber n = some r) (hdata : 0x10 ≤ n.toNat) :
    r.isStatus = false := by
  unfold regOfNumber at hn
  split at hn
  case h_1 => omega
  case h_2 => exact isStatus_of_opaqueRegister hn
  case h_3 => exact isStatus_of_fieldRegister hn
  case h_4 => exact isStatus_of_fieldRegister hn
  case h_5 => exact isStatus_of_fieldRegister hn
  case h_6 => exact isStatus_of_scaleRegister hn
  case h_7 => exact isStatus_of_scaleRegister hn
  case h_8 => exact isStatus_of_scaleRegister hn
  case h_9 => contradiction

theorem readPort_of_not_readable {s : State} {n : Byte} {r : RegName} (hn : regOfNumber n = some r)
    (hr : s.readable r = false) : s.readPort n = (Config.freeRead s.draws, 1) := by
  simp [State.readPort, hn, hr]

/-- Settles O44: such a register is not readable, so the port shows the next drawn value. -/
theorem undefinedReadsAreDrawn : Obligations.UndefinedReadsAreDrawn := by
  intro s n r rest hin hn hdata hundefined
  have hr : s.readable r = false := by
    rw [State.readable, isStatus_of_regOfNumber hn hdata]
    obtain hb | hw := hundefined
    · simp [hb]
    · simp [hw]
  have hport := readPort_of_not_readable hn hr
  exact ⟨_, step_of_read hin, by rw [State.rdData, hport], by rw [hport]⟩

/-! The Decoded Report in DONE (R224). -/

/-- Settles O45: outside BUSY the sequencer has no step, and what is left is a READ. -/
theorem doneHoldsTheReport : Obligations.DoneHoldsTheReport := by
  intro s t hdone hdeliver hreset h
  obtain ⟨inbox, ht⟩ | ⟨F, rest, hin, -⟩ | ⟨n, rest, -, rfl⟩ | ⟨rest, hin, -⟩ := step_cases_of_turn h
  · have hidle : s.status ≠ .busy := by simp [hdone]
    rw [sequencerTurn_of_not_busy (s := { s with inbox := inbox }) hidle] at ht
    obtain rfl := Host.Outcome.next.inj ht
    exact ⟨by simp [State.rpValid, hdone], rfl, rfl⟩
  · exact absurd hin (hdeliver F rest)
  · exact ⟨by simp [State.rpValid, hdone], rfl, rfl⟩
  · exact absurd hin (hreset rest)

/-! The text of bytes (R232). -/

theorem hexText_cons_cons (b c : Byte) (rest : List Byte) :
    hexText (b :: c :: rest) =
      hexDigit (b.toNat / 16) :: hexDigit (b.toNat % 16) :: ' ' :: hexText (c :: rest) := rfl

theorem length_hexText_cons (b : Byte) (rest : List Byte) : (hexText (b :: rest)).length = 3 * rest.length + 2 := by
  induction rest generalizing b with
  | nil => rfl
  | cons c rest ih =>
    simp only [hexText_cons_cons, List.length_cons, ih]
    omega

theorem getElem?_hexText {L : List Byte} {k : Nat} (h : k < L.length) :
    (hexText L)[3 * k]? = some (hexDigit (L[k].toNat / 16)) ∧
      (hexText L)[3 * k + 1]? = some (hexDigit (L[k].toNat % 16)) := by
  match L, k with
  | [b], 0 => exact ⟨rfl, rfl⟩
  | b :: c :: rest, 0 => exact ⟨rfl, rfl⟩
  | b :: c :: rest, k + 1 => exact getElem?_hexText (L := c :: rest) (k := k) (Nat.lt_of_succ_lt_succ h)

theorem getElem?_hexText_space {L : List Byte} {k : Nat} (h : k + 1 < L.length) :
    (hexText L)[3 * k + 2]? = some ' ' := by
  match L, k with
  | b :: c :: rest, 0 => rfl
  | b :: c :: rest, k + 1 => exact getElem?_hexText_space (L := c :: rest) (k := k) (Nat.lt_of_succ_lt_succ h)

/-- `hexDigit` is an entry of the table of digits. -/
theorem getElem?_hexDigits {n : Nat} (h : n < 16) : "0123456789abcdef".toList[n]? = some (hexDigit n) := by
  revert n
  decide

/-- Settles O46: each byte but the last puts three characters before the text of the rest. -/
theorem hexText_spec : Obligations.HexText := by
  intro L hL
  obtain ⟨b, rest, rfl⟩ := List.exists_cons_of_ne_nil hL
  refine ⟨?_, fun k h => ?_, fun k => getElem?_hexText_space⟩
  · rw [length_hexText_cons, List.length_cons]
    omega
  · obtain ⟨hhigh, hlow⟩ := getElem?_hexText h
    have hbyte := (b :: rest)[k].isLt
    rw [hhigh, hlow, getElem?_hexDigits (by omega), getElem?_hexDigits (by omega)]
    exact ⟨rfl, rfl⟩

end Sys2Proof.Machine

/-! ## The checks of a step and its faults (60_exceptions.md R257 to R263)

What an instruction does is decided by its checks: a missing source or an overrun faults, and without these every
instruction but END is its common completion, which faults at index 31 only. -/

namespace Sys2Proof.Machine

section Checks

variable {i : Instr} {s t : State}

/-- R257: the source check of LDS and CNV. -/
theorem exec_of_sourceMissing (h : s.sourceMissing i) : exec i s = .next (s.enterFault .unwrittenSource) := by
  cases i with
  | lds g r =>
    have hsrc : ¬ s.written.scaleSources g = true := by
      rw [WFlags.scaleSources_iff, not_and_or]
      simpa [State.sourceMissing] using h
    exact if_neg hsrc
  | cnv g a =>
    have hsrc : ¬ s.written.convertSources g a = true := by
      rw [WFlags.convertSources_iff, not_and_or]
      simpa [State.sourceMissing] using h
    exact if_neg hsrc
  | _ => exact h.elim

/-- R258: the bound of the four slices. -/
theorem exec_of_overruns (h : s.overruns i) : exec i s = .next (s.enterFault .cursorOverrun) := by
  obtain ⟨hi, hw⟩ := h
  cases i with
  | slo f => exact (exec_slo f s).trans (slice_of_overrun hw)
  | slm g => exact (exec_slm g s).trans (slice_of_overrun hw)
  | sld g => exact (exec_sld g s).trans (slice_of_overrun hw)
  | sla g a w => exact (exec_sla g a w s).trans (slice_of_overrun hw)
  | _ => cases hi

/-- A slice within the buffer is its write and the common completion (R120, R121). -/
theorem slice_eq_complete {w : Nat} {put : Bytes w → State → State} (hw : ¬ s.cur.toNat + w > 64) :
    slice w put s = complete s ((put (memRead s.rb s.cur.toNat w) s).moveCursor w) :=
  if_neg hw

/-- Past the checks of sources and bounds, every instruction but END is the common completion, over a state in which its
own writes leave STATUS and FCAUSE alone. -/
theorem exec_eq_complete (hsrc : ¬ s.sourceMissing i) (hfit : ¬ s.overruns i) (hend : i ≠ .endRun) :
    ∃ after, exec i s = complete s after ∧ after.status = s.status ∧ after.fcause = s.fcause := by
  cases i with
  | slo f => exact ⟨_, (exec_slo f s).trans (slice_eq_complete fun hw => hfit ⟨rfl, hw⟩), by simp⟩
  | slm g => exact ⟨_, (exec_slm g s).trans (slice_eq_complete fun hw => hfit ⟨rfl, hw⟩), by simp⟩
  | sld g => exact ⟨_, (exec_sld g s).trans (slice_eq_complete fun hw => hfit ⟨rfl, hw⟩), by simp⟩
  | sla g a w => exact ⟨_, (exec_sla g a w s).trans (slice_eq_complete fun hw => hfit ⟨rfl, hw⟩), by simp⟩
  | lds g r => exact ⟨_, if_pos (scaleSources_of_not_sourceMissing hsrc), by simp⟩
  | cnv g a => exact ⟨_, if_pos (convertSources_of_not_sourceMissing hsrc), by simp⟩
  | endRun => exact absurd rfl hend

/-- R259: index 31 holds no instruction but END. -/
theorem exec_of_last (hsrc : ¬ s.sourceMissing i) (hfit : ¬ s.overruns i) (hend : i ≠ .endRun) (hd : s.dpc = 31) :
    exec i s = .next (s.enterFault .romOverrun) := by
  obtain ⟨after, he, -⟩ := exec_eq_complete hsrc hfit hend
  exact he.trans (complete_of_eq hd)

/-- An instruction that fails no check takes effect. -/
theorem exec_of_no_fault (hb : s.status = .busy) (hsrc : ¬ s.sourceMissing i) (hfit : ¬ s.overruns i)
    (hlast : i = .endRun ∨ s.dpc ≠ 31) :
    ∃ t, exec i s = .next t ∧ t.status ≠ .fault ∧ t.fcause = s.fcause := by
  by_cases hend : i = .endRun
  · subst hend
    exact ⟨_, rfl, by simp, rfl⟩
  · obtain ⟨after, he, hstatus, hfcause⟩ := exec_eq_complete hsrc hfit hend
    exact ⟨after.advance, he.trans (complete_of_ne (hlast.resolve_left hend)), by simp [hstatus, hb], by simp [hfcause]⟩

/-- Fault entry is all that an instruction that ends in FAULT does (R262). -/
theorem exec_fault (hb : s.status = .busy) (h : exec i s = .next t) (ht : t.status = .fault) :
    ∃ c, c ≠ .none ∧ t = s.enterFault c := by
  obtain hfault | ⟨-, rfl⟩ | ⟨-, he⟩ := exec_cases h
  · exact hfault
  · simp at ht
  · obtain ⟨_, -, -, rfl⟩ | ⟨_, -, -, rfl⟩ | ⟨_, -, -, rfl⟩ | ⟨_, _, _, -, -, rfl⟩ | ⟨_, _, -, -, rfl⟩ |
      ⟨_, _, -, -, rfl⟩ := he
    all_goals simp [hb] at ht

end Checks

/-- Settles O24: the step is the instruction, and each check decides it when those before have passed. -/
theorem faultChecksInOrder : Obligations.FaultChecksInOrder := by
  intro s hb hin
  rw [step_of_inbox_nil hin, sequencerTurn_of_busy hb]
  refine ⟨fun e hdec => sequencerStep_of_error hdec, fun i hdec => ?_⟩
  rw [sequencerStep_of_ok hdec]
  exact ⟨exec_of_sourceMissing, exec_of_overruns, exec_of_last, exec_of_no_fault hb⟩

/-- Settles O25: an illegal word and a failed check both end in fault entry, and nothing else ends in FAULT. -/
theorem faultsArePrecise : Obligations.FaultsArePrecise := by
  intro s t hb hin h ht
  rw [step_of_inbox_nil hin] at h
  obtain ⟨hnot, -⟩ | ⟨-, -, rfl⟩ | ⟨-, i, -, he⟩ := sequencerTurn_cases h
  · exact absurd hb hnot
  · exact ⟨rfl, by simp⟩
  · obtain ⟨c, hc, rfl⟩ := exec_fault hb he ht
    exact ⟨rfl, by simpa using hc⟩

/-- Settles O26: in FAULT the sequencer has no step, a READ writes the host's side only, and what is left is DELIVER and
RESET. -/
theorem faultIsSticky : Obligations.FaultIsSticky := by
  intro s t hs h
  obtain ⟨inbox, ht⟩ | ⟨F, rest, hin, -, rfl⟩ | ⟨n, rest, -, rfl⟩ | ⟨rest, hin, rfl⟩ := step_cases_of_turn h
  · have hidle : s.status ≠ .busy := by simp [hs]
    rw [sequencerTurn_of_not_busy (s := { s with inbox := inbox }) hidle] at ht
    obtain rfl := Host.Outcome.next.inj ht
    exact .inl ⟨hs, rfl, rfl, rfl⟩
  · exact .inr (.inl ⟨F, rest, hin, by simp⟩)
  · exact .inl ⟨hs, rfl, rfl, rfl⟩
  · exact .inr (.inr ⟨rest, hin, by simp⟩)

end Sys2Proof.Machine

/-! ## No fault with the canonical ROM (60_exceptions.md R264) -/

namespace Sys2Proof.Machine

/-- What every step keeps holds at the end of every run. -/
theorem runFor_of_step {P : State → Prop} (hstep : ∀ s t, P s → step s = .next t → P t) {n : Nat} {s t : State}
    (hs : P s) (h : runFor n s = .next t) : P t := by
  induction n generalizing s with
  | zero =>
    obtain rfl : s = t := Host.Outcome.next.inj h
    exact hs
  | succ n ih =>
    obtain ⟨u, hu, hrest⟩ := step_of_runFor_succ h
    exact ih (hstep s u hs hu) hrest

/-- After reset the canonical program stands at its start, whatever the host will do. -/
theorem canonicalProgress_reset (inbox : List HostEvent) (nanBits : Word64) :
    CanonicalProgress { State.reset with inbox := inbox, params := ⟨Config.canonicalRom, nanBits⟩ } :=
  .of_start rfl rfl (by simp [State.reset]) rfl rfl rfl

/-- Settles O56: the progress of the canonical program holds after reset, every step keeps it, and it has no fault. -/
theorem canonicalRomNeverFaults : Obligations.CanonicalRomNeverFaults := by
  intro inbox nanBits n t h
  have ht := runFor_of_step stepKeepsTheCanonicalProgress (canonicalProgress_reset inbox nanBits) h
  exact ⟨ht.noFault, ht.noCause⟩

end Sys2Proof.Machine

/-! ## Several instances (60_exceptions.md R268)

A move replaces one element of the list of instances by what its own step makes of it. -/

namespace Sys2Proof.Machine

/-- A decoder after its own move; it stays where the move stops (log 14). -/
def State.moved (s : State) : State :=
  match step s with
  | .next t => t
  | .fault _ => s
  | .refused _ => s

theorem System.move_eq_modify (sys : System) (k : Nat) : sys.move k = ⟨sys.decoders.modify k State.moved⟩ := by
  obtain ⟨L⟩ := sys
  rw [List.modify_eq_set_getElem?]
  cases hk : L[k]? with
  | none => simp [System.move, hk]
  | some s =>
    obtain ⟨t, ht⟩ := everyStepHasANextState s
    simp [System.move, State.moved, hk, ht]

/-- Settles O47: changes of different elements of a list commute and leave one another's element. -/
theorem instancesAreIndependent : Obligations.InstancesAreIndependent := by
  intro sys k j hne
  simp only [System.move_eq_modify]
  exact ⟨congrArg System.mk (List.modify_modify_ne _ _ _ hne), List.getElem?_modify_ne _ _ hne⟩

end Sys2Proof.Machine

/-! ## Reset (70_reset_and_hazards.md R280) -/

namespace Sys2Proof.Machine

/-- Settles O33: the block after reset is the block that RESET leaves, and this meets the invariant. -/
theorem invariantHoldsAtReset : Obligations.InvariantHoldsAtReset := Inv.resetBlock State.reset

theorem step_of_reset {s : State} {rest : List HostEvent} (hin : s.inbox = .reset :: rest) :
    step s = .next (s.withInbox rest).resetBlock := by
  simp [step, turn, hin, State.withInbox]

@[simp] theorem WFlags.word_clear : WFlags.clear.word = 0 := rfl

/-- Settles O35: the step is the reset of the block, which keeps the parameters alone. -/
theorem resetLeavesTheStatedValues : Obligations.ResetLeavesTheStatedValues := by
  intro s rest hin
  refine ⟨_, step_of_reset hin, ?_⟩
  simp [State.frReady, State.rpValid, State.withInbox]

end Sys2Proof.Machine

/-! ## The check of a program is exact (70_reset_and_hazards.md R287)

The progress that the check counts is what CUR and the written flags say of a state in BUSY. So the check of an
instruction passes exactly when the instruction takes effect, and the rest of the program is checked from the state this
leaves. -/

namespace Sys2Proof

variable {p : Progress} {k : Nat} {i : Instr} {rest : List Instr}

theorem Progress.checkFrom_nil : p.checkFrom k [] ≠ .ok () := nofun

theorem Progress.checkFrom_endRun (hk : k < 32) : p.checkFrom k (.endRun :: rest) = .ok () :=
  if_pos (Nat.le_of_lt_succ hk)

/-- The check of what comes before END: of the instruction, of its place, and of the rest from the progress it makes. -/
theorem Progress.checkFrom_cons_iff (hend : i ≠ .endRun) :
    p.checkFrom k (i :: rest) = .ok () ↔
      (p.check k i = .ok () ∧ k < 31) ∧ (p.after i).checkFrom (k + 1) rest = .ok () := by
  rw [Progress.checkFrom]
  · cases p.check k i with
    | error e => simp
    | ok u => by_cases hk : k < 31 <;> simp [hk]
  · exact hend

theorem wellFormedProgram_iff (program : List Instr) :
    wellFormedProgram program = true ↔ Progress.start.checkFrom 0 program = .ok () := by
  unfold wellFormedProgram checkProgram
  cases Progress.start.checkFrom 0 program <;> simp

end Sys2Proof

namespace Sys2Proof.Machine

/-- What CUR and the written flags say of the program's progress (R287). -/
def State.progress (s : State) : Progress where
  sliced := s.cur.toNat
  mulb := s.written.mulbW
  divb := s.written.divbW
  axb := s.written.axbW
  scale := s.written.scaleW

theorem progress_deliver (s : State) (F : List Byte) : (s.deliver F).progress = .start := by
  simp [State.progress, Progress.start, WFlags.clear]

section Instructions

variable {i : Instr} {s t : State}

theorem ite_eq_ok_iff {c : Prop} [Decidable c] {e : ProgramError} :
    (if c then Except.ok () else Except.error e) = Except.ok () ↔ c := by
  by_cases hc : c <;> simp [hc]

/-- The check of an instruction is that of its sources and that of the bound (R257, R258). -/
theorem check_progress_iff (k : Nat) :
    s.progress.check k i = .ok () ↔ ¬ s.sourceMissing i ∧ ¬ s.overruns i := by
  cases i
  case endRun => exact iff_of_true rfl ⟨id, fun hover => nomatch hover.1⟩
  all_goals
    refine ite_eq_ok_iff.trans ?_
    simp [State.progress, State.sourceMissing, State.overruns, isSlice, Instr.sliceWidth]

/-- In BUSY an instruction before END takes effect exactly when it passes its check and stands before index 31. -/
theorem busy_iff_check (hb : s.status = .busy) (hend : i ≠ .endRun) (h : exec i s = .next t) (k : Nat) :
    t.status = .busy ↔ s.progress.check k i = .ok () ∧ s.dpc ≠ 31 := by
  rw [check_progress_iff]
  constructor
  · intro ht
    have hne (c : Cause) : exec i s ≠ .next (s.enterFault c) := by
      intro hfault
      obtain rfl := Host.Outcome.next.inj (h.symm.trans hfault)
      simp at ht
    have hsrc : ¬ s.sourceMissing i := fun hc => hne _ (exec_of_sourceMissing hc)
    have hfit : ¬ s.overruns i := fun hc => hne _ (exec_of_overruns hc)
    exact ⟨⟨hsrc, hfit⟩, fun hd => hne _ (exec_of_last hsrc hfit hend hd)⟩
  · rintro ⟨⟨hsrc, hfit⟩, hd⟩
    obtain ⟨after, he, hstatus, -⟩ := exec_eq_complete hsrc hfit hend
    obtain rfl := Host.Outcome.next.inj (h.symm.trans (he.trans (complete_of_ne hd)))
    simp [hstatus, hb]

/-- An instruction that takes effect makes the progress that the check counts. -/
theorem progress_exec (h : exec i s = .next t) (hb : t.status = .busy) : t.progress = s.progress.after i := by
  obtain ⟨hover, -⟩ | ⟨hcur, -⟩ := exec_position h
  · exact absurd hb hover
  rw [State.progress, hcur]
  obtain ⟨c, -, rfl⟩ | ⟨-, rfl⟩ | ⟨-, he⟩ := exec_cases h
  · simp at hb
  · simp at hb
  obtain ⟨f, rfl, -, rfl⟩ | ⟨g, rfl, -, rfl⟩ | ⟨g, rfl, -, rfl⟩ | ⟨g, a, w, rfl, -, rfl⟩ | ⟨g, r, rfl, -, rfl⟩ |
    ⟨g, a, rfl, -, rfl⟩ := he
  · cases f <;> rfl
  all_goals rfl

end Instructions

section Runs

variable {program : List Instr} {s t : State} {n : Nat}

theorem fetch_romOf (hrom : s.params.layoutRom = romOf program) :
    fetch s = ((program.drop s.dpc.toNat).head?.map encode).getD 0x00 := by
  simp [fetch, hrom, romOf, List.head?_drop]

/-- `n` steps end in DONE. -/
def EndsDone (n : Nat) (s : State) : Prop :=
  ∃ t, runFor n s = .next t ∧ t.status = .done

theorem endsDone_of_not_busy (hin : s.inbox = []) (hb : s.status ≠ .busy) : EndsDone n s ↔ s.status = .done := by
  simp [EndsDone, runFor_of_not_busy hin hb]

theorem endsDone_of_error {e : Illegal} (hin : s.inbox = []) (hb : s.status = .busy)
    (hdec : decode (fetch s) = .error e) : ¬ EndsDone (n + 1) s := by
  have hstep : step s = .next (s.enterFault .illegalDescriptor) := (faultChecksInOrder s hb hin).1 e hdec
  rw [EndsDone, runFor_succ hstep, ← EndsDone, endsDone_of_not_busy (by simpa using hin) (by simp)]
  simp

theorem endsDone_of_ok {i : Instr} (hin : s.inbox = []) (hb : s.status = .busy) (hdec : decode (fetch s) = .ok i)
    (he : exec i s = .next t) : EndsDone (n + 1) s ↔ EndsDone n t := by
  have hstep := (stepRunsTheDecodedInstruction s i hb hin hdec).trans he
  rw [EndsDone, runFor_succ hstep, ← EndsDone]

theorem ne_31_iff (d : BitVec 5) : d ≠ 31 ↔ d.toNat < 31 := by
  bv_omega

/-- From any descriptor on, the run that is left ends in DONE exactly when the check of what is left passes. -/
theorem endsDone_iff_checkFrom (hrom : s.params.layoutRom = romOf program) (hin : s.inbox = [])
    (hb : s.status = .busy) (hleft : s.dpc.toNat + n = 32) :
    EndsDone n s ↔ s.progress.checkFrom s.dpc.toNat (program.drop s.dpc.toNat) = .ok () := by
  induction n generalizing s with
  | zero => exact absurd s.dpc.isLt (by omega)
  | succ n ih =>
    have hfetch := fetch_romOf hrom
    cases hdrop : program.drop s.dpc.toNat with
    | nil =>
      have hdec : decode (fetch s) = .error .reservedOp := by
        rw [hfetch, hdrop]
        rfl
      exact iff_of_false (endsDone_of_error hin hb hdec) Progress.checkFrom_nil
    | cons i rest =>
      have hdec : decode (fetch s) = .ok i := by
        rw [hfetch, hdrop]
        exact decode_encode i
      have hrest : program.drop (s.dpc.toNat + 1) = rest := by rw [← List.tail_drop, hdrop, List.tail_cons]
      obtain ⟨t, he⟩ := exec_next i s
      obtain ⟨hparams, -, hinbox⟩ := exec_keeps he
      rw [hin] at hinbox
      rw [endsDone_of_ok hin hb hdec he]
      by_cases hend : i = .endRun
      · subst hend
        obtain rfl := execEndRun_cases he
        exact iff_of_true ((endsDone_of_not_busy hinbox (by simp)).mpr rfl) (Progress.checkFrom_endRun s.dpc.isLt)
      rw [Progress.checkFrom_cons_iff hend, ← ne_31_iff, ← busy_iff_check hb hend he]
      by_cases ht : t.status = .busy
      · obtain ⟨hover, -⟩ | ⟨-, hdpc⟩ := exec_position he
        · exact absurd ht hover
        have hrun := ih (by rw [hparams, hrom]) hinbox ht (by omega)
        rw [hdpc, hrest, progress_exec he ht] at hrun
        exact hrun.trans (and_iff_right ht).symm
      · obtain hst | ⟨hi, -⟩ | ⟨hst, -⟩ := exec_status he
        · exact absurd (hst.trans hb) ht
        · exact absurd hi hend
        · exact iff_of_false (by simp [endsDone_of_not_busy hinbox ht, hst]) fun hcheck => ht hcheck.1

end Runs

/-- Settles O59: an accepted frame starts the program at index 0 with no progress, and 32 descriptors are left. -/
theorem programCheckIsExact : Obligations.ProgramCheckIsExact := by
  intro program s F hrom _ hin hlen
  have hrun := endsDone_iff_checkFrom (n := 32) (s := s.deliver F) (by simpa using hrom) (by simpa using hin)
    (by simp [hlen]) (by simp)
  simpa [EndsDone, progress_deliver, wellFormedProgram_iff] using hrun

end Sys2Proof.Machine
